-- ==== Sys2Proof/Word.lean ====
section
/-! DEFINITION. The words of the host port and the names of the general registers. -/

namespace Sys2Proof

/-- One 32-bit word: what the host port moves (R67), a command word (R90), a control register (R24). -/
abbrev Word := BitVec 32

/-- A host word index, `IDX_W` = 11 bits, 0x000 to 0x7FF (R6, R60). -/
abbrev Index := BitVec 11

/-- The number of a general register, x[0] to x[7] (R20). -/
abbrev Reg := Fin 8

end Sys2Proof
end

