-- ==== Sys2Proof/Syntax.lean ====
section
/-! DEFINITION. The five commands (R93 to R98), the fields of a command word (R91), and the pseudo-instructions, which are
second spellings of commands (R104). -/

namespace Sys2Proof

/-- A command of the block, one constructor for each row of spec/opcode_table.json. The operands stand in the order of
the assembler text (R103): the destination first, the modulus last. -/
inductive Instr where
  /-- `PTEST rs1` (R94, R121). -/
  | ptest (rs1 : Reg)
  /-- `MODINV rd, rs1, rs3` (R95, R151). -/
  | modinv (rd rs1 rs3 : Reg)
  /-- `MODEXP rd, rs1, rs2, rs3` (R96, R166). -/
  | modexp (rd rs1 rs2 rs3 : Reg)
  /-- `MODRED rd, rs1, rs3` (R97, R183). -/
  | modred (rd rs1 rs3 : Reg)
  /-- `MODMUL rd, rs1, rs2, rs3` (R98, R187). -/
  | modmul (rd rs1 rs2 rs3 : Reg)
deriving DecidableEq, Repr

/-- The nine fields of a command word in C-format (R91), before any check of them. -/
structure Fields where
  /-- Operation code, bits 7:0. -/
  op : BitVec 8
  /-- Destination register, bits 10:8. -/
  rd : BitVec 3
  /-- Reserved, bit 11. -/
  z1 : BitVec 1
  /-- First operand register, bits 14:12. -/
  rs1 : BitVec 3
  /-- Reserved, bit 15. -/
  z2 : BitVec 1
  /-- Second operand register, bits 18:16. -/
  rs2 : BitVec 3
  /-- Reserved, bit 19. -/
  z3 : BitVec 1
  /-- Modulus register, bits 22:20. -/
  rs3 : BitVec 3
  /-- Reserved, bits 31:23. -/
  z4 : BitVec 9
deriving DecidableEq, Repr

/-- The fields of a command: its operation code (R93), its operands, and zero everywhere else (R99). -/
def Instr.fields : Instr → Fields
  | .ptest rs1 => { op := 1, rd := 0, z1 := 0, rs1 := BitVec.ofFin rs1, z2 := 0, rs2 := 0, z3 := 0, rs3 := 0, z4 := 0 }
  | .modinv rd rs1 rs3 =>
    { op := 2, rd := BitVec.ofFin rd, z1 := 0, rs1 := BitVec.ofFin rs1, z2 := 0, rs2 := 0, z3 := 0, rs3 := BitVec.ofFin rs3, z4 := 0 }
  | .modexp rd rs1 rs2 rs3 =>
    { op := 3, rd := BitVec.ofFin rd, z1 := 0, rs1 := BitVec.ofFin rs1, z2 := 0, rs2 := BitVec.ofFin rs2, z3 := 0,
      rs3 := BitVec.ofFin rs3, z4 := 0 }
  | .modred rd rs1 rs3 =>
    { op := 4, rd := BitVec.ofFin rd, z1 := 0, rs1 := BitVec.ofFin rs1, z2 := 0, rs2 := 0, z3 := 0, rs3 := BitVec.ofFin rs3, z4 := 0 }
  | .modmul rd rs1 rs2 rs3 =>
    { op := 5, rd := BitVec.ofFin rd, z1 := 0, rs1 := BitVec.ofFin rs1, z2 := 0, rs2 := BitVec.ofFin rs2, z3 := 0,
      rs3 := BitVec.ofFin rs3, z4 := 0 }

/-- `MODSQR rd, rs1, rs3` (R104). -/
def Instr.modsqr (rd rs1 rs3 : Reg) : Instr := .modmul rd rs1 rs1 rs3

/-- `ENCRYPT rd, rm, re, rn` (R104). -/
def Instr.encrypt (rd rm re rn : Reg) : Instr := .modexp rd rm re rn

/-- `DECRYPT rd, rc, rdd, rn` (R104). -/
def Instr.decrypt (rd rc rdd rn : Reg) : Instr := .modexp rd rc rdd rn

/-- `ISPRIME rs1` (R104). -/
def Instr.isprime (rs1 : Reg) : Instr := .ptest rs1

end Sys2Proof
end

