-- ==== Sys2Proof/WellFormed.lean ====
section
/-! DEFINITION. When the fields of a command word are those of a command (R93, R99): a known operation code, every
reserved field zero, every register field the command does not use zero. A register number needs no check: every
3-bit number names a register (R92). -/

namespace Sys2Proof

/-- The operation code selects a command (R93): 0x01 to 0x05, nothing else. -/
def Fields.opKnown (f : Fields) : Bool :=
  f.op == 1 || f.op == 2 || f.op == 3 || f.op == 4 || f.op == 5

/-- The reserved fields z1, z2, z3, z4 are zero (R99). -/
def Fields.reservedZero (f : Fields) : Bool :=
  f.z1 == 0 && f.z2 == 0 && f.z3 == 0 && f.z4 == 0

/-- The register fields the command does not use are zero (R99): rd, rs2, rs3 of PTEST; rs2 of MODINV and MODRED. -/
def Fields.unusedZero (f : Fields) : Bool :=
  if f.op == 1 then f.rd == 0 && f.rs2 == 0 && f.rs3 == 0
  else if f.op == 2 || f.op == 4 then f.rs2 == 0
  else true

/-- The fields are those of a command (R99). -/
def Fields.wellFormed (f : Fields) : Bool :=
  f.opKnown && f.reservedZero && f.unusedZero

/-- A command is well-formed when its fields are. -/
def Instr.wellFormed (i : Instr) : Bool := i.fields.wellFormed

end Sys2Proof
end

