-- ==== Sys2Proof/Decode.lean ====
section
/-! DEFINITION. The decoder (R93 to R100), total on the 32-bit words, which rejects by name; after it the encoder,
written from the word formulas of R94 to R98. -/

namespace Sys2Proof

/-- Why a word is no command (R100). -/
inductive Illegal where
  /-- `OP` is 0x00 or 0x06 to 0xFF (R93). -/
  | unknownOp
  /-- A known `OP` with a must-be-zero bit set (R99). -/
  | mustBeZero
deriving DecidableEq, Repr

/-- The fields of a word (R91). -/
def splitWord (w : Word) : Fields :=
  { op := w.extractLsb' 0 8, rd := w.extractLsb' 8 3, z1 := w.extractLsb' 11 1, rs1 := w.extractLsb' 12 3,
    z2 := w.extractLsb' 15 1, rs2 := w.extractLsb' 16 3, z3 := w.extractLsb' 19 1, rs3 := w.extractLsb' 20 3,
    z4 := w.extractLsb' 23 9 }

/-- The register a 3-bit field names (R92): all eight numbers are legal. -/
def regOf (b : BitVec 3) : Reg := ⟨b.toNat, b.isLt⟩

/-- `(w AND mask) = match` (R93). -/
def matchesRow (w mask mtch : Word) : Bool := w &&& mask == mtch

/-- Decoding (R93): the operation code selects the command, the row's mask and match (R94 to R98) decide whether the
word is legal, and the fields are then read by R91. -/
def decode (w : Word) : Except Illegal Instr :=
  let f := splitWord w
  match f.op.toNat with
  | 1 => if matchesRow w 0xFFFF8FFF#32 0x00000001#32 then .ok (.ptest (regOf f.rs1)) else .error .mustBeZero
  | 2 =>
    if matchesRow w 0xFF8F88FF#32 0x00000002#32 then .ok (.modinv (regOf f.rd) (regOf f.rs1) (regOf f.rs3))
    else .error .mustBeZero
  | 3 =>
    if matchesRow w 0xFF8888FF#32 0x00000003#32 then
      .ok (.modexp (regOf f.rd) (regOf f.rs1) (regOf f.rs2) (regOf f.rs3))
    else .error .mustBeZero
  | 4 =>
    if matchesRow w 0xFF8F88FF#32 0x00000004#32 then .ok (.modred (regOf f.rd) (regOf f.rs1) (regOf f.rs3))
    else .error .mustBeZero
  | 5 =>
    if matchesRow w 0xFF8888FF#32 0x00000005#32 then
      .ok (.modmul (regOf f.rd) (regOf f.rs1) (regOf f.rs2) (regOf f.rs3))
    else .error .mustBeZero
  | _ => .error .unknownOp

/-- The encoding function of R105: `OP + 256 * rd + 4096 * rs1 + 65536 * rs2 + 1048576 * rs3`. -/
def encFields (op rd rs1 rs2 rs3 : Nat) : Word :=
  BitVec.ofNat 32 (op + 0x100 * rd + 0x1000 * rs1 + 0x10000 * rs2 + 0x100000 * rs3)

/-- The word of a command (R94 to R98). -/
def encode : Instr → Word
  | .ptest rs1 => encFields 1 0 rs1.val 0 0
  | .modinv rd rs1 rs3 => encFields 2 rd.val rs1.val 0 rs3.val
  | .modexp rd rs1 rs2 rs3 => encFields 3 rd.val rs1.val rs2.val rs3.val
  | .modred rd rs1 rs3 => encFields 4 rd.val rs1.val 0 rs3.val
  | .modmul rd rs1 rs2 rs3 => encFields 5 rd.val rs1.val rs2.val rs3.val

/-- What the decoder reads from an instruction whose bits are `w`, numbered as spec/opcode_table.json numbers them. A
command is one 32-bit word (R90), so the word is `w` itself, its bits above `nbits` zero. -/
def decodeTableWord (nbits w : Nat) : Option Instr :=
  if w % 2 ^ nbits < 2 ^ 32 then
    match decode (BitVec.ofNat 32 (w % 2 ^ nbits)) with
    | .ok i => some i
    | .error _ => none
  else none

end Sys2Proof
end

