-- ==== Sys2Proof/Machine/Arith.lean ====
section
/-! DEFINITION. The arithmetic units as functions on naturals (R8, R181): reduction (R180), multiplication (R188),
exponentiation (R168), the extended Euclidean algorithm (R153), the factoring of n - 1 (R125) and one Miller-Rabin round
(R129). They touch no state (R141, R173). -/

namespace Sys2Proof.Machine

/-- `bitlen(v)` (R7): the number of bits without leading zeros, 0 for 0. -/
def bitlen (v : Nat) : Nat := if v = 0 then 0 else v.log2 + 1

/-- The remainder the reduction engine returns (R180). -/
def redMod (v m : Nat) : Nat := v % m

/-- `MulMod(a, b, m)` (R188): the exact product, then reduced. -/
def mulMod (a b m : Nat) : Nat := redMod (a * b) m

/-- The loop of `ModExp` (R168) for the bits below position `i`, the highest first. -/
def modExpLoop (b e m : Nat) : Nat → Nat → Nat
  | 0, acc => acc
  | i + 1, acc =>
    let sq := mulMod acc acc m
    modExpLoop b e m i (if e.testBit i then mulMod sq b m else sq)

/-- `ModExp(b, e, m)` by the reference algorithm, left-to-right binary (R168). -/
def modExp (b e m : Nat) : Nat := modExpLoop b e m (bitlen e) (redMod 1 m)

/-- The loop of `ExtEuclid` (R153). The first argument bounds the number of turns; `extEuclid` gives it e + 1, and the
remainder r1 falls in every turn. -/
def extEuclidLoop (m : Nat) : Nat → Nat → Nat → Nat → Nat → Nat × Nat
  | 0, r0, _, t0, _ => (r0, t0)
  | k + 1, r0, r1, t0, t1 =>
    if r1 = 0 then (r0, t0)
    else
      extEuclidLoop m k r1 (r0 - r0 / r1 * r1) t1 (((t0 : Int) - ((r0 / r1 : Nat) : Int) * (t1 : Int)) % (m : Int)).toNat

/-- `ExtEuclid(e, m)` (R153): gcd(e, m) and the coefficient of e. -/
def extEuclid (e m : Nat) : Nat × Nat := extEuclidLoop m (e + 1) m e 0 (redMod 1 m)

/-- The loop of the factoring (R125): shift right while the low bit is 0. The first argument bounds the turns. -/
def factorLoop : Nat → Nat → Nat → Nat × Nat
  | 0, r, s => (r, s)
  | k + 1, r, s => if r % 2 = 0 then factorLoop k (r / 2) (s + 1) else (r, s)

/-- The odd part r and the exponent s with v = r * 2^s, for v > 0 (R125). -/
def factor (v : Nat) : Nat × Nat := factorLoop (bitlen v) v 0

/-- The squarings of a round (R129), at most the given number of them: 1 fails, n - 1 passes. -/
def squarings (n : Nat) : Nat → Nat → Bool
  | 0, _ => false
  | j + 1, x =>
    let y := mulMod x x n
    if y = 1 then false else if y = n - 1 then true else squarings n j y

/-- `RoundPasses(n, r, s, a)` (R129). -/
def roundPasses (n r s a : Nat) : Bool :=
  let x := modExp a r n
  if x = 1 ∨ x = n - 1 then true else squarings n (s - 1) x

end Sys2Proof.Machine
end

