-- ==== Sys2Proof/Config.lean ====
section
/-! DEFINITION. The implementation parameters (R6). What the spec fixes is a number; what it leaves open is a constant
with no body, so that no proof can lean on its value. -/

namespace Sys2Proof.Config

/-- `LIMBS` - 1 of the block that comes out of reset. `W` = 32 * `LIMBS` is OPEN (R6, D2): a multiple of 32 from 32 to
4096, so `LIMBS` runs from 1 to 128. The constant has no body. DESIGN CHOICE, safe: log entry 1. -/
opaque topLimb : Fin 128

/-- `LIMBS` of the block that comes out of reset (R6): 1 to 128, and nothing more is known of it. -/
def limbs : Nat := topLimb.val + 1

/-- `NREG`, the number of general registers (R6, R20). -/
abbrev nreg : Nat := 8

/-- `ROUNDS_RESET`, the reset value of ROUNDS (R6, R39). -/
def roundsReset : Word := 128#32

/-- `REGBASE`, the word index of limb 0 of x[0] (R6, R61). -/
abbrev regBase : Nat := 0x400

/-- `REGSTRIDE`, the word-index distance between x[i] and x[i+1] (R6, R61). -/
abbrev regStride : Nat := 0x80

/-- `ID_VALUE`, the constant read at the ID register (R6, R26). -/
def idValue : Word := 0x4D525054#32

end Sys2Proof.Config
end

