-- ==== Sys2Proof/Machine/State.lean ====
section
/-! DEFINITION. The state of the block (file 10), the steps of its four agents as data (R10), the reasons a step can
stop, and the state after reset (R52). -/

namespace Sys2Proof.Machine

/-- The hidden register PHASE (R44), the block's stand-in for a program counter (R43). -/
inductive Phase where
  /-- No command is running. -/
  | idle
  /-- A command has been accepted; the sequencer has not yet taken its step for it. -/
  | exec
  /-- A PTEST waits for an answer to the request (2, PT_N - 2). -/
  | rngWait
deriving DecidableEq, Repr

/-- The causes of an error completion (R202). -/
inductive Cause where
  /-- Code 1 (R205): the word in CMD is not legal. -/
  | illegalCommand
  /-- Code 2 (R206): the modulus x[rs3] is 0. -/
  | zeroModulus
  /-- Code 3 (R207): the operands of MODINV are not coprime. -/
  | noModularInverse
  /-- Code 4 (R208): the random source answered outside [2, n - 2]. -/
  | rngRange
deriving DecidableEq, Repr

/-- One atomic step of one agent, with its input (R10). An agent whose step does not exist at that moment does nothing:
a response with no request (R48), the sequencer outside EXEC (R46). -/
inductive Event where
  /-- The host reads a word index (R63). -/
  | hostRead (idx : Index)
  /-- The host writes a word to a word index (R64). -/
  | hostWrite (idx : Index) (v : Word)
  /-- The sequencer executes the command in CMD (R46). -/
  | sequencer
  /-- The random source answers `a` (R48, R127). Nothing constrains `a`: it is a free value (U2; log entry 3). -/
  | draw (a : Nat)
  /-- The reset line is taken (R49, R241). -/
  | hardReset
deriving DecidableEq, Repr

/-- The block's surroundings. Not state of the block: no reset touches it (log entries 2 and 4). -/
structure Env where
  /-- The steps the agents take next, oldest first. -/
  schedule : List Event
  /-- The words the host port has answered reads with (R63), latest first. -/
  reads : List Word
deriving DecidableEq, Repr

/-- The state of the block (R20 to R47), the operand width it was built with, and its surroundings. -/
structure State where
  /-- `LIMBS` = W / 32 (R6). A constant of the block, not state: no step changes it (log entry 1). -/
  limbs : Nat
  /-- The general registers x[0] to x[7] (R20), each a natural below 2^W (R9). -/
  x : Vector Nat 8
  /-- CMD, the last accepted command word (R27). -/
  cmd : Word
  /-- STATUS.DONE (R30). -/
  done : Bool
  /-- STATUS.ERR (R31). -/
  err : Bool
  /-- STATUS.PRIME (R32). -/
  prime : Bool
  /-- STATUS.ACCERR (R33). -/
  accerr : Bool
  /-- STATUS.ERRCODE (R35). -/
  errcode : BitVec 8
  /-- CTRL.IE (R38). -/
  ie : Bool
  /-- ROUNDS (R39). -/
  rounds : Word
  /-- RNDCNT (R40). -/
  rndcnt : Word
  /-- PHASE (R44). -/
  phase : Phase
  /-- KLAT, the value of ROUNDS at acceptance (R47). -/
  klat : Word
  /-- PT_N, the number under test (R47). -/
  ptN : Nat
  /-- PT_R, the odd part of PT_N - 1 (R47). -/
  ptR : Nat
  /-- PT_S, the exponent of 2 in PT_N - 1 (R47). -/
  ptS : Nat
  /-- PT_I, the number of rounds passed (R47). -/
  ptI : Word
  /-- The surroundings. -/
  env : Env
deriving DecidableEq, Repr

/-- The reasons a step stops the machine: there are none. Every error of the block is a completion, after which the
block is idle and ready (R200, R204), and a refused host access only sets ACCERR (R66). -/
inductive Fault where
deriving DecidableEq, Repr

/-- The reasons an instruction has no meaning. -/
inductive Refusal where
  /-- Raised by an arm of `exec` for an instruction that has no meaning yet. Safe: the machine stops where the block goes
  on. No arm raises it. -/
  | notModelled (mnemonic : String)
deriving DecidableEq, Repr

/-- The block with `n` limbs right after a reset (R52), nothing scheduled and nothing read. -/
def State.resetWith (n : Nat) : State :=
  { limbs := n, x := Vector.replicate 8 0, cmd := 0, done := false, err := false, prime := false, accerr := false,
    errcode := 0, ie := false, rounds := Config.roundsReset, rndcnt := 0, phase := .idle, klat := 0, ptN := 0, ptR := 0,
    ptS := 0, ptI := 0, env := { schedule := [], reads := [] } }

/-- The block right after a reset (R52). The operand width is the open parameter (R6). -/
def State.reset : State := State.resetWith Config.limbs

end Sys2Proof.Machine
end

