-- ==== Sys2Proof/Machine/Ops.lean ====
section
/-! DEFINITION. The named operations on the state: reading and writing a general register, the acceptance of a command
(R45), the two completions (R203, R204), the refusal of a host access (R66), the resets (R241), and the surroundings'
bookkeeping. -/

namespace Sys2Proof.Machine

/-- `W` = 32 * `LIMBS` (R6). -/
def State.width (s : State) : Nat := 32 * s.limbs

/-- `x[i]` (R9). -/
def readReg (s : State) (i : Reg) : Nat := s.x[i.val]

/-- `x[i] <- v` (R9). -/
def writeReg (i : Reg) (v : Nat) (s : State) : State := { s with x := s.x.set i.val v i.isLt }

/-- Acceptance of the command word `w` (R45): CMD and KLAT are latched, the flags of the last command and RNDCNT are
cleared, the sequencer is started; no check of `w` is made. -/
def accept (w : Word) (s : State) : State :=
  { s with cmd := w, klat := s.rounds, rndcnt := 0, done := false, err := false, errcode := 0, prime := false, phase := .exec }

/-- Normal completion (R203), with the verdict `v` for a PTEST and `false` for every other command. -/
def complete (v : Bool) (s : State) : State :=
  { s with phase := .idle, done := true, err := false, errcode := 0, prime := v }

/-- The cause code recorded in ERRCODE (R202). -/
def causeCode : Cause → BitVec 8
  | .illegalCommand => 1
  | .zeroModulus => 2
  | .noModularInverse => 3
  | .rngRange => 4

/-- Error completion, `raise <Name>(code)` (R204): the block's way of taking an exception. Nothing but PHASE and the
flags is written: errors are precise, control goes nowhere, and no state is saved because none is lost. -/
def raiseError (c : Cause) (s : State) : State :=
  { s with phase := .idle, done := true, err := true, errcode := causeCode c, prime := false }

/-- The acknowledgement that stands in for a return from an exception (R213): DONE falls, and ERR, ERRCODE, PRIME and
RNDCNT remain readable. The host reaches it by a write of STATUS with bit 1 set (R37). -/
def ackDone (s : State) : State := { s with done := false }

/-- ACCERR is cleared, by a write of STATUS with bit 5 set (R37). -/
def clearAccerr (s : State) : State := { s with accerr := false }

/-- The whole effect of a refused access on the state (R66). -/
def refuse (s : State) : State := { s with accerr := true }

/-- The effect of both resets (R240, R241, R242): every piece of state takes its value of R52. The width of the block
and its surroundings are not its state. -/
def resetBlock (s : State) : State := { State.resetWith s.limbs with env := s.env }

/-- One more answer taken from the random source (R40, R127). -/
def countDraw (s : State) : State := { s with rndcnt := s.rndcnt + 1 }

/-- PT_N, PT_R, PT_S are latched and PT_I starts at 0 (R125). -/
def latchTest (n r e : Nat) (s : State) : State := { s with ptN := n, ptR := r, ptS := e, ptI := 0 }

/-- `PHASE <- RNGWAIT`, which places the request on the random-source port (R125, R126). -/
def awaitDraw (s : State) : State := { s with phase := .rngWait }

/-- One more round has passed (R131). -/
def passRound (s : State) : State := { s with ptI := s.ptI + 1 }

/-- The oldest scheduled step is taken off the schedule. -/
def popEvent (s : State) : State := { s with env := { s.env with schedule := s.env.schedule.tail } }

/-- A step is put before all scheduled ones. -/
def pushEvent (e : Event) (s : State) : State := { s with env := { s.env with schedule := e :: s.env.schedule } }

/-- The host receives the word its read returns (R63). -/
def deliver (w : Word) (s : State) : State := { s with env := { s.env with reads := w :: s.env.reads } }

end Sys2Proof.Machine
end

