-- ==== Sys2Proof/Machine/Reduction.lean ====
section
/-! DEFINITION. The reduction engine's two commands (file 43), and the end of every command with a result. -/

namespace Sys2Proof.Machine

/-- `x[rd] <- v; complete` (R203): the result is written at normal completion only (R21). -/
def writeResult (rd : Reg) (v : Nat) (s : State) : State := complete false (writeReg rd v s)

/-- MODRED (R184): the zero modulus is tested first (R190). -/
def execModred (rd rs1 rs3 : Reg) (s : State) : Host.Outcome State Fault Refusal :=
  if readReg s rs3 = 0 then .next (raiseError .zeroModulus s)
  else .next (writeResult rd (redMod (readReg s rs1) (readReg s rs3)) s)

/-- MODMUL (R188): the zero modulus is tested first (R190). -/
def execModmul (rd rs1 rs2 rs3 : Reg) (s : State) : Host.Outcome State Fault Refusal :=
  if readReg s rs3 = 0 then .next (raiseError .zeroModulus s)
  else .next (writeResult rd (mulMod (readReg s rs1) (readReg s rs2) (readReg s rs3)) s)

end Sys2Proof.Machine
end

