-- ==== Sys2Proof/Machine/Exponentiation.lean ====
section
/-! DEFINITION. The modular exponentiation command (file 42). -/

namespace Sys2Proof.Machine

/-- MODEXP (R167): the zero modulus is tested first (R190). -/
def execModexp (rd rs1 rs2 rs3 : Reg) (s : State) : Host.Outcome State Fault Refusal :=
  if readReg s rs3 = 0 then .next (raiseError .zeroModulus s)
  else .next (writeResult rd (modExp (readReg s rs1) (readReg s rs2) (readReg s rs3)) s)

end Sys2Proof.Machine
end

