-- ==== Sys2Proof/Machine/Inverse.lean ====
section
/-! DEFINITION. The modular inverse command (file 41). -/

namespace Sys2Proof.Machine

/-- The end of MODINV once ExtEuclid has returned `(g, t)` (R152): NoModularInverse when g is not 1 (R156), else x[rd] <- t. -/
def finishInverse (rd : Reg) (gt : Nat × Nat) (s : State) : State :=
  if gt.1 ≠ 1 then raiseError .noModularInverse s else writeResult rd gt.2 s

/-- MODINV (R152): the zero modulus is tested first (R157). -/
def execModinv (rd rs1 rs3 : Reg) (s : State) : Host.Outcome State Fault Refusal :=
  if readReg s rs3 = 0 then .next (raiseError .zeroModulus s)
  else .next (finishInverse rd (extEuclid (readReg s rs1) (readReg s rs3)) s)

end Sys2Proof.Machine
end

