-- ==== Sys2Proof/Machine/Primality.lean ====
section
/-! DEFINITION. The primality test command (file 40): its first step, which `exec` runs, and its response step, which the
random source drives. -/

namespace Sys2Proof.Machine

/-- Factoring and latching (R125), for odd n >= 5: with no round to hold the verdict is true, else the request is placed. -/
def startRounds (n : Nat) (s : State) : State :=
  let t := latchTest n (factor (n - 1)).1 (factor (n - 1)).2 s
  if s.klat = 0 then complete true t else awaitDraw t

/-- The first step of PTEST on the number `n` (R122): the first case whose condition holds (R123, R124, R125). -/
def firstStep (n : Nat) (s : State) : State :=
  if n = 2 then complete true s
  else if n < 2 ∨ n % 2 = 0 then complete false s
  else if n = 3 then complete true s
  else startRounds n s

/-- PTEST (R122). -/
def execPtest (rs1 : Reg) (s : State) : Host.Outcome State Fault Refusal :=
  .next (firstStep (readReg s rs1) s)

/-- A passing round (R131): the last one completes with the verdict true, else the request stands again. -/
def endRound (s : State) : State :=
  if s.ptI + 1 = s.klat then complete true (passRound s) else awaitDraw (passRound s)

/-- The response step while a request stands (R127): count the answer, then the range check (R128), then the round
(R129 to R131). -/
def takeAnswer (a : Nat) (s : State) : State :=
  if a < 2 ∨ a > s.ptN - 2 then raiseError .rngRange (countDraw s)
  else if roundPasses s.ptN s.ptR s.ptS a then endRound (countDraw s)
  else complete false (countDraw s)

/-- The random source delivers `a` (R48): the response step if a request stands, nothing otherwise (R244). -/
def respond (a : Nat) (s : State) : State :=
  match s.phase with
  | .rngWait => takeAnswer a s
  | .idle | .exec => s

end Sys2Proof.Machine
end

