-- ==== Sys2Proof/Machine/Dispatch.lean ====
section
/-! DEFINITION. One arm per command. -/

namespace Sys2Proof.Machine

-- The sequencer's step for a legal command (R46).
def exec (i : Instr) (s : State) : Host.Outcome State Fault Refusal :=
  match i with
  | .ptest rs1 => Sys2Proof.Machine.execPtest rs1 s
  | .modinv rd rs1 rs3 => Sys2Proof.Machine.execModinv rd rs1 rs3 s
  | .modexp rd rs1 rs2 rs3 => Sys2Proof.Machine.execModexp rd rs1 rs2 rs3 s
  | .modred rd rs1 rs3 => Sys2Proof.Machine.execModred rd rs1 rs3 s
  | .modmul rd rs1 rs2 rs3 => Sys2Proof.Machine.execModmul rd rs1 rs2 rs3 s

end Sys2Proof.Machine
end

