-- ==== Sys2Proof/Machine/Flags.lean ====
section
/-! DEFINITION. What is computed from the state and not stored: the STATUS, CTRL and PARAM words (R25, R28, R38), the
interrupt line (R41) and the request on the random-source port (R126). -/

namespace Sys2Proof.Machine

/-- STATUS.BUSY (R28, R29): 1 exactly when PHASE /= IDLE. -/
def busy (s : State) : Bool := s.phase != .idle

/-- STATUS.RNGWAIT (R28, R34): 1 exactly when PHASE = RNGWAIT. -/
def rngWaiting (s : State) : Bool := s.phase == .rngWait

/-- The STATUS word (R28), bit 31 first: 31:16 read 0, ERRCODE, 7 reads 0, RNGWAIT, ACCERR, 4 reads 0, PRIME, ERR, DONE, BUSY. -/
def statusWord (s : State) : Word :=
  0#16 ++ s.errcode ++ 0#1 ++ BitVec.ofBool (rngWaiting s) ++ BitVec.ofBool s.accerr ++ 0#1 ++ BitVec.ofBool s.prime
    ++ BitVec.ofBool s.err ++ BitVec.ofBool s.done ++ BitVec.ofBool (busy s)

/-- The CTRL word as read: bit 0 is IE, all other bits 0 (R38, R63). -/
def ctrlWord (s : State) : Word := 0#31 ++ BitVec.ofBool s.ie

/-- The PARAM word (R25): `LIMBS` in bits 7:0, `NREG` in bits 11:8. -/
def paramWord (s : State) : Word := BitVec.ofNat 32 (s.limbs + 0x100 * Config.nreg)

/-- The interrupt line (R41, R210): `irq` = CTRL.IE AND STATUS.DONE. -/
def irq (s : State) : Bool := s.ie && s.done

/-- The request standing on the random-source port (R48, R126): (2, PT_N - 2) while PHASE = RNGWAIT, else none. -/
def request (s : State) : Option (Nat × Nat) :=
  match s.phase with
  | .rngWait => some (2, s.ptN - 2)
  | .idle | .exec => none

/-- The write-one-to-clear effect of a write of `v` to STATUS (R37). -/
def writeStatus (v : Word) (s : State) : State :=
  let s := if v.getLsbD 1 then ackDone s else s
  if v.getLsbD 5 then clearAccerr s else s

/-- The effect of a write of `v` to CTRL (R38): a soft reset if bit 1 is set and the block is idle (R242), a refused access
if bit 1 is set and it is not, else IE <- v[0]. -/
def writeCtrl (v : Word) (s : State) : State :=
  if v.getLsbD 1 then
    match s.phase with
    | .idle => resetBlock s
    | .exec | .rngWait => refuse s
  else { s with ie := v.getLsbD 0 }

end Sys2Proof.Machine
end

