-- ==== Sys2Proof/Machine/Operands.lean ====
section
/-! DEFINITION. The places a transaction can name: the index map of the host port (R24, R61, R70) and the limbs of a
general register (R22, R62). The operands of a command are whole registers named by number (R92): `readReg`, `writeReg`. -/

namespace Sys2Proof.Machine

/-- Limb `j` of the value `v`: `v[32*j+31 : 32*j]` (R22, R62). -/
def limb (v j : Nat) : Word := BitVec.ofNat 32 (v / 2 ^ (32 * j))

/-- `v` with bits [32*j+31 : 32*j] replaced by `w` (R22, R64). -/
def setLimb (v j : Nat) (w : Word) : Nat :=
  v / 2 ^ (32 * (j + 1)) * 2 ^ (32 * (j + 1)) + w.toNat * 2 ^ (32 * j) + v % 2 ^ (32 * j)

/-- The value whose limbs are the listed words, limb 0 first (R62): the sum of word(j) * 2^(32*j). -/
def joinLimbs : List Word → Nat
  | [] => 0
  | w :: ws => w.toNat + 2 ^ 32 * joinLimbs ws

/-- What a word index names (R70). -/
inductive Target where
  /-- 0x000 (R26). -/
  | id
  /-- 0x001 (R25). -/
  | param
  /-- 0x002 (R27). -/
  | cmd
  /-- 0x003 (R28). -/
  | status
  /-- 0x004 (R38). -/
  | ctrl
  /-- 0x005 (R39). -/
  | rounds
  /-- 0x006 (R40). -/
  | rndcnt
  /-- Limb `j` of x[i] (R61). -/
  | window (i : Reg) (j : Nat)
  /-- An index that holds nothing (R65). -/
  | unmapped
deriving DecidableEq, Repr

/-- The register of a window index: `(idx - 0x400) div 128` (R61). -/
def windowReg (idx : Index) : Reg := Fin.ofNat 8 ((idx.toNat - Config.regBase) / Config.regStride)

/-- The limb of a window index: `(idx - 0x400) mod 128` (R61). -/
def windowLimb (idx : Index) : Nat := (idx.toNat - Config.regBase) % Config.regStride

/-- The index map of a block with `n` limbs (R24, R61, R65, R70). -/
def target (n : Nat) (idx : Index) : Target :=
  if idx.toNat = 0 then .id
  else if idx.toNat = 1 then .param
  else if idx.toNat = 2 then .cmd
  else if idx.toNat = 3 then .status
  else if idx.toNat = 4 then .ctrl
  else if idx.toNat = 5 then .rounds
  else if idx.toNat = 6 then .rndcnt
  else if idx.toNat < Config.regBase then .unmapped
  else if windowLimb idx < n then .window (windowReg idx) (windowLimb idx)
  else .unmapped

/-- The word index of limb `j` of x[i]: `REGBASE + REGSTRIDE * i + j` (R61). -/
def windowIndex (i : Reg) (j : Nat) : Index :=
  BitVec.ofNat 11 (Config.regBase + Config.regStride * i.val + j)

end Sys2Proof.Machine
end

