-- ==== Sys2Proof/Machine/HostPort.lean ====
section
/-! DEFINITION. The two host transactions (R63, R64, R66). -/

namespace Sys2Proof.Machine

/-- A window read (R63): performed while idle, refused otherwise. -/
def readWindow (i : Reg) (j : Nat) (s : State) : Word × State :=
  match s.phase with
  | .idle => (limb (readReg s i) j, s)
  | .exec | .rngWait => (0, refuse s)

/-- `HostRead(idx)` (R63): the word the port returns and the state after. -/
def hostRead (idx : Index) (s : State) : Word × State :=
  match target s.limbs idx with
  | .id => (Config.idValue, s)
  | .param => (paramWord s, s)
  | .cmd => (s.cmd, s)
  | .status => (statusWord s, s)
  | .ctrl => (ctrlWord s, s)
  | .rounds => (s.rounds, s)
  | .rndcnt => (s.rndcnt, s)
  | .window i j => readWindow i j s
  | .unmapped => (0, refuse s)

/-- An operation the host may perform only while the block is idle (R64 item 3). -/
def whenIdle (f : State → State) (s : State) : State :=
  match s.phase with
  | .idle => f s
  | .exec | .rngWait => refuse s

/-- `ROUNDS <- v` (R39). -/
def writeRounds (v : Word) (s : State) : State := { s with rounds := v }

/-- Limb `j` of x[i] is replaced by `v` (R64 item 6). -/
def writeLimb (i : Reg) (j : Nat) (v : Word) (s : State) : State :=
  writeReg i (setLimb (readReg s i) j v) s

/-- `HostWrite(idx, v)` (R64). -/
def hostWrite (idx : Index) (v : Word) (s : State) : State :=
  match target s.limbs idx with
  | .status => writeStatus v s
  | .ctrl => writeCtrl v s
  | .cmd => whenIdle (accept v) s
  | .rounds => whenIdle (writeRounds v) s
  | .window i j => whenIdle (writeLimb i j v) s
  | .id | .param | .rndcnt | .unmapped => refuse s

end Sys2Proof.Machine
end

