-- ==== Sys2Proof/Machine/Agents.lean ====
section
/-! DEFINITION. The steps of the four agents (R10) and which of them moves next. -/

namespace Sys2Proof.Machine

/-- The sequencer's step while PHASE = EXEC (R46): IllegalCommand when CMD is not a legal word (R205), else the command. -/
def executeCmd (s : State) : Host.Outcome State Fault Refusal :=
  match decode s.cmd with
  | .ok i => exec i s
  | .error _ => .next (raiseError .illegalCommand s)

/-- The sequencer (R46): it has no step in IDLE and none in RNGWAIT. -/
def sequencerStep (s : State) : Host.Outcome State Fault Refusal :=
  match s.phase with
  | .exec => executeCmd s
  | .idle | .rngWait => .next s

/-- One step of one agent. -/
def agentStep (e : Event) (s : State) : Host.Outcome State Fault Refusal :=
  match e with
  | .hostRead idx => .next (deliver (hostRead idx s).1 (hostRead idx s).2)
  | .hostWrite idx v => .next (hostWrite idx v s)
  | .sequencer => sequencerStep s
  | .draw a => .next (respond a s)
  | .hardReset => .next (resetBlock s)

/-- The step taken next: the oldest scheduled one, or, when none is scheduled, the sequencer's, which is eventually taken
whenever it exists (R257; log entry 2). With nothing scheduled no other agent moves: an idle block waits for the host
(R245), and a PTEST whose random source is silent waits for ever (R258). -/
def nextEvent (s : State) : Event :=
  match s.env.schedule with
  | [] => .sequencer
  | e :: _ => e

/-- One step of the block with its surroundings. -/
def stepNext (s : State) : Host.Outcome State Fault Refusal := agentStep (nextEvent s) (popEvent s)

/-- The state in which the word `w` has just been accepted (R45) and the sequencer moves next (log entry 5). -/
def placeCommand (w : Word) (s : State) : State := pushEvent .sequencer (accept w s)

end Sys2Proof.Machine
end

