-- ==== Sys2Proof/Machine/Step.lean ====
section
/-! DEFINITION. One step of the machine. -/

namespace Sys2Proof.Machine

/-- One atomic step of the agent that moves next (R10). -/
def step (s : State) : Host.Outcome State Fault Refusal := stepNext s

/-- `s` with the instruction whose bits are `w` (bits above `nbits` zero) given to the block, so that the very next step
runs it. A command is not fetched (R43); it stands in CMD from its acceptance (R45). -/
def State.withFetchWord (s : State) (nbits w : Nat) : State := placeCommand (BitVec.ofNat 32 (w % 2 ^ nbits)) s

end Sys2Proof.Machine
end

