-- ==== Sys2Proof/Machine/Script.lean ====
section
/-! DEFINITION. The host's notation (R103, R106) as the transactions it stands for. The host is an agent outside the block;
these are lists of its steps. `WAIT` is a loop of the host over `poll`, so it is no fixed list (log entry 6). -/

namespace Sys2Proof.Machine

/-- `WR xi, v` (R106, R77) on a block with `n` limbs. -/
def scriptWr (n : Nat) (i : Reg) (v : Nat) : List Event :=
  (List.range n).map fun j => .hostWrite (windowIndex i j) (limb v j)

/-- `RD xi` (R106, R77) on a block with `n` limbs. -/
def scriptRd (n : Nat) (i : Reg) : List Event :=
  (List.range n).map fun j => .hostRead (windowIndex i j)

/-- A line of assembler text (R103): one write of the command's word to CMD. -/
def scriptCommand (i : Instr) : Event := .hostWrite 0x002#11 (encode i)

/-- `SETROUNDS k` (R106). -/
def scriptSetRounds (k : Word) : Event := .hostWrite 0x005#11 k

/-- One turn of `WAIT` (R106). -/
def scriptPoll : Event := .hostRead 0x003#11

/-- `ACK` (R106). -/
def scriptAck : Event := .hostWrite 0x003#11 0x00000002#32

/-- `CLRACC` (R106). -/
def scriptClracc : Event := .hostWrite 0x003#11 0x00000020#32

/-- `IRQON` (R106). -/
def scriptIrqOn : Event := .hostWrite 0x004#11 0x00000001#32

/-- `IRQOFF` (R106). -/
def scriptIrqOff : Event := .hostWrite 0x004#11 0x00000000#32

/-- `SRST` (R106). -/
def scriptSrst : Event := .hostWrite 0x004#11 0x00000002#32

end Sys2Proof.Machine
end

