-- ==== Sys2Proof/Safety.lean ====
section
/-! DEFINITION. The terms the statements use: the invariant of the state, the complete list of refused accesses (R66), the
primality test as one function (R132), and what the host can see. -/

namespace Sys2Proof.Safety

open Sys2Proof.Machine

/-- The operand width is a legal one (R6), and every W-bit register holds less than 2^W (R20, R47). -/
def WidthInv (s : State) : Prop :=
  1 ≤ s.limbs ∧ s.limbs ≤ 128 ∧ (∀ i : Reg, readReg s i < 2 ^ s.width) ∧ s.ptN < 2 ^ s.width ∧ s.ptR < 2 ^ s.width
    ∧ s.ptS ≤ s.width - 1

/-- The stored flags agree with one another and with PHASE: R31 and R35 on ERR and ERRCODE, R32 on PRIME, R45 on a running
command, whose acceptance cleared them. -/
def FlagInv (s : State) : Prop :=
  (s.err = true ↔ s.errcode ≠ 0) ∧ s.errcode.toNat ≤ 4 ∧ (s.prime = true → s.err = false)
    ∧ (s.phase ≠ .idle → s.done = false ∧ s.err = false ∧ s.errcode = 0 ∧ s.prime = false)

/-- The hidden registers of the sequencer while they are read (R44, R47, R51, R125): before its step no answer has been
counted, and while a request stands PT_N is odd and at least 5, PT_N - 1 = PT_R * 2^PT_S with PT_R odd, fewer than KLAT rounds
have passed, and RNDCNT = PT_I. -/
def TestInv (s : State) : Prop :=
  (s.phase = .exec → s.rndcnt = 0)
    ∧ (s.phase = .rngWait → 5 ≤ s.ptN ∧ s.ptN % 2 = 1 ∧ s.ptN - 1 = s.ptR * 2 ^ s.ptS ∧ s.ptR % 2 = 1 ∧ 1 ≤ s.ptS
        ∧ s.ptI.toNat < s.klat.toNat ∧ s.rndcnt = s.ptI)

/-- The invariant that holds at reset and that every step keeps. -/
def Inv (s : State) : Prop := WidthInv s ∧ FlagInv s ∧ TestInv s

/-- A word index that holds something on a block with `n` limbs (R65, R70). -/
abbrev Mapped (n : Nat) (idx : Index) : Prop :=
  idx.toNat ≤ 6 ∨ (0x400 ≤ idx.toNat ∧ (idx.toNat - 0x400) % 128 < n)

/-- The reads R66 lists as refused: (a) an unmapped index, (c) a window index while the block is busy. -/
abbrev RefusedRead (s : State) (idx : Index) : Prop :=
  ¬ Mapped s.limbs idx ∨ (s.phase ≠ .idle ∧ 0x400 ≤ idx.toNat)

/-- The writes R66 lists as refused: (a) an unmapped index, (b) ID, PARAM, RNDCNT, (c) while the block is busy: the window, CMD,
ROUNDS, and CTRL with bit 1 set. -/
abbrev RefusedWrite (s : State) (idx : Index) (v : Word) : Prop :=
  ¬ Mapped s.limbs idx ∨ idx.toNat = 0 ∨ idx.toNat = 1 ∨ idx.toNat = 6
    ∨ (s.phase ≠ .idle
        ∧ (0x400 ≤ idx.toNat ∨ idx.toNat = 2 ∨ idx.toNat = 5 ∨ (idx.toNat = 4 ∧ v.getLsbD 1 = true)))

/-- The outcomes of the primality test as a function (R132). -/
inductive TestOutcome where
  /-- Every round passed. -/
  | prime
  /-- The number is composite. -/
  | composite
  /-- The random source answered outside the interval. -/
  | rngrange
deriving DecidableEq, Repr

/-- The rounds of R132, with `i` rounds held and `k` still to hold; `a i` is the i-th answer, counted from 1. -/
def testRounds (n r e : Nat) (a : Nat → Nat) : Nat → Nat → TestOutcome × Nat
  | 0, i => (.prime, i)
  | k + 1, i =>
    if a (i + 1) < 2 ∨ a (i + 1) > n - 2 then (.rngrange, i + 1)
    else if roundPasses n r e (a (i + 1)) = false then (.composite, i + 1)
    else testRounds n r e a k (i + 1)

/-- `PT(n, k, a)` (R132): the outcome and the number of draws used. -/
def primalityTest (n k : Nat) (a : Nat → Nat) : TestOutcome × Nat :=
  if n = 2 then (.prime, 0)
  else if n < 2 ∨ n % 2 = 0 then (.composite, 0)
  else if n = 3 then (.prime, 0)
  else testRounds n (factor (n - 1)).1 (factor (n - 1)).2 a k 0

/-- The first `k` answers of the random source as scheduled steps. -/
def answers (k : Nat) (a : Nat → Nat) : List Event := (List.range k).map fun i => .draw (a (i + 1))

/-- The modulus register of the commands that have one (R190). -/
def modulusReg : Instr → Option Reg
  | .ptest _ => none
  | .modinv _ _ rs3 => some rs3
  | .modexp _ _ _ rs3 => some rs3
  | .modred _ _ rs3 => some rs3
  | .modmul _ _ _ rs3 => some rs3

/-- The destination register of the commands that have one (R21): PTEST writes no general register (R121). -/
def destReg : Instr → Option Reg
  | .ptest _ => none
  | .modinv rd _ _ => some rd
  | .modexp rd _ _ _ => some rd
  | .modred rd _ _ => some rd
  | .modmul rd _ _ _ => some rd

/-- The source registers of a command (R94 to R98). -/
def sourceRegs : Instr → List Reg
  | .ptest rs1 => [rs1]
  | .modinv _ rs1 rs3 => [rs1, rs3]
  | .modexp _ rs1 rs2 rs3 => [rs1, rs2, rs3]
  | .modred _ rs1 rs3 => [rs1, rs3]
  | .modmul _ rs1 rs2 rs3 => [rs1, rs2, rs3]

/-- The steps of the host (R63, R64). -/
def isHostEvent : Event → Bool
  | .hostRead _ => true
  | .hostWrite _ _ => true
  | .sequencer => false
  | .draw _ => false
  | .hardReset => false

/-- The steps that can end a PTEST waiting for an answer (R258): an answer, or the hard reset. -/
def endsWaiting : Event → Bool
  | .draw _ => true
  | .hardReset => true
  | .hostRead _ => false
  | .hostWrite _ _ => false
  | .sequencer => false

end Sys2Proof.Safety
end

