-- ==== Sys2Proof/Certificates/Slice0/Obligations.lean ====
section
/-! DEFINITION. The statements about the block for the provers. Each docstring says which rule of spec/ it formalises.
Next states are written out field by field, so that a statement says what the rule says whatever the model calls it. -/

open Sys2Proof Sys2Proof.Machine Sys2Proof.Safety

/-! ## Reset -/

/-- R241, R52: the hard reset exists in every state and phase and gives every piece of state the value of R52's table; the operand
width and the block's surroundings are not its state. The soft reset of an idle block has exactly the same effect (R242),
`irq` is then 0 and no request stands. -/
def Obligations.BothResetsGiveTheTableOfRuleFiftyTwo : Prop :=
  ∀ s : State,
    let t : State :=
      { limbs := s.limbs, x := Vector.replicate 8 0, cmd := 0, done := false, err := false, prime := false, accerr := false,
        errcode := 0, ie := false, rounds := 128, rndcnt := 0, phase := .idle, klat := 0, ptN := 0, ptR := 0, ptS := 0,
        ptI := 0, env := s.env }
    agentStep .hardReset s = .next t
      ∧ (∀ v : Word, s.phase = .idle → v.getLsbD 1 = true → agentStep (.hostWrite 0x004 v) s = .next t)
      ∧ irq t = false ∧ request t = none

/-- R52: the machine starts as a reset leaves it. That nothing is scheduled and nothing has been read is the model's choice (log
entries 2 and 4), and the operand width is the open constant of log entry 1, of which only its range is known. -/
def Obligations.TheMachineStartsAsAResetLeavesIt : Prop :=
  State.reset =
      { limbs := Config.limbs, x := Vector.replicate 8 0, cmd := 0, done := false, err := false, prime := false,
        accerr := false, errcode := 0, ie := false, rounds := 128, rndcnt := 0, phase := .idle, klat := 0, ptN := 0,
        ptR := 0, ptS := 0, ptI := 0, env := { schedule := [], reads := [] } }
    ∧ 1 ≤ Config.limbs ∧ Config.limbs ≤ 128 ∧ agentStep .hardReset State.reset = .next State.reset

/-- R242, R38: while the block is busy the write that would reset it is a refused access as a whole: ACCERR is set, nothing is
reset, and CTRL.IE is not changed either. -/
def Obligations.SoftResetIsRefusedWhileBusy : Prop :=
  ∀ (s : State) (v : Word), s.phase ≠ .idle → v.getLsbD 1 = true →
    agentStep (.hostWrite 0x004 v) s = .next { s with accerr := true }

/-- The invariant holds in the state after reset, whatever the operand width. -/
def Obligations.ResetStateMeetsTheInvariant : Prop := Inv State.reset

/-- The invariant (register widths R20, R47; flags R31, R32, R35, R45; a waiting PTEST R51, R125, R131) is kept by every step of
every agent, from every state that meets it. -/
def Obligations.EveryStepKeepsTheInvariant : Prop :=
  ∀ s t : State, Inv s → step s = .next t → Inv t

/-- R6: the operand width is a constant of the block; no step of any agent changes it. -/
def Obligations.NoStepChangesTheOperandWidth : Prop :=
  ∀ s t : State, step s = .next t → t.limbs = s.limbs

/-! ## Encoding -/

/-- R91 to R99: decoding the word of a command gives the command back, for all five commands and every register in every
operand field. -/
def Obligations.DecodingAnEncodedCommandGivesItBack : Prop :=
  ∀ i : Instr, i.wellFormed = true → decode (encode i) = .ok i

/-- R99: one spelling per command: a word that decodes to a command is that command's word. -/
def Obligations.ALegalWordIsTheEncodingOfItsCommand : Prop :=
  ∀ (w : Word) (i : Instr), decode w = .ok i → encode i = w

/-- R93 and R99 agree: the mask and match of a row accept a word exactly when its operation code is known, its reserved fields
are zero and the register fields its command does not use are zero; and every other word is rejected by name, as an
unknown operation code exactly when the code is 0x00 or 0x06 to 0xFF (R100). -/
def Obligations.LegalWordsAreThoseWithZeroInEveryMustBeZeroBit : Prop :=
  ∀ w : Word,
    ((∃ i, decode w = .ok i) ↔ (splitWord w).wellFormed = true)
      ∧ (decode w = .error .unknownOp ↔ (w.extractLsb' 0 8 = 0#8 ∨ 6 ≤ (w.extractLsb' 0 8).toNat))

/-- R105's five examples, two more words of 95 (V-EN-03, V-EN-06), and illegal words of R100: the words written out from the
encoding decode to the commands they stand for, and the all-zero and all-ones words to none. -/
def Obligations.TheExampleWordsDecodeAsTheSpecSays : Prop :=
  decode 0x00001001 = .ok (.ptest 1) ∧ decode 0x00000001 = .ok (.ptest 0) ∧ decode 0x00201302 = .ok (.modinv 3 1 2)
    ∧ decode 0x00321403 = .ok (.modexp 4 1 2 3) ∧ decode 0x00354603 = .ok (.modexp 6 4 5 3)
    ∧ decode 0x00707004 = .ok (.modred 0 7 7) ∧ decode 0x00777705 = .ok (.modmul 7 7 7 7)
    ∧ decode 0x00000000 = .error .unknownOp ∧ decode 0xFFFFFFFF = .error .unknownOp
    ∧ decode 0x00001101 = .error .mustBeZero ∧ decode 0x80321403 = .error .mustBeZero

/-! ## Which agent moves, and what the sequencer runs -/

/-- R10: one step of the machine is one step of one agent, the scheduled one. With nothing scheduled an idle block does nothing
(R245) and a block that waits for the random source goes on waiting (R258). That the schedule in the state says which agent moves
is the model's choice (log entry 2); that the sequencer moves by itself when nothing is scheduled is the next statement. -/
def Obligations.OneStepIsTheScheduledAgentsStep : Prop :=
  (∀ (s : State) (e : Event) (rest : List Event), s.env.schedule = e :: rest →
      step s = agentStep e { s with env := { s.env with schedule := rest } })
    ∧ (∀ s : State, s.env.schedule = [] → s.phase ≠ .exec → step s = .next s)

/-- R46: when CMD decodes to a command, the sequencer's step is the execution of that command, and nothing is added around it: no
register moves past an instruction, since there is no program counter (R43). With nothing scheduled the sequencer moves by
itself (R257; that it does so at once is the model's choice, log entry 2); a scheduled step of its own is taken off the schedule. -/
def Obligations.AStepOfTheSequencerRunsTheDecodedCommand : Prop :=
  ∀ (s : State) (i : Instr), s.phase = .exec → decode s.cmd = .ok i →
    (s.env.schedule = [] → step s = exec i s)
      ∧ (∀ rest, s.env.schedule = .sequencer :: rest →
          step s = exec i { s with env := { s.env with schedule := rest } })

/-- R45, R103: a line of assembler text is one host write to CMD. Issued to an idle block and followed by the sequencer's step,
it runs exactly that command, on the state in which the acceptance has latched ROUNDS and cleared the flags and RNDCNT. -/
def Obligations.AnIssuedCommandIsTheOneThatRuns : Prop :=
  ∀ (s : State) (i : Instr) (rest : List Event), s.phase = .idle →
    s.env.schedule = scriptCommand i :: .sequencer :: rest →
    Host.Core.run core 2 s =
      exec i
        { s with
          cmd := encode i, klat := s.rounds, rndcnt := 0, done := false, err := false, errcode := 0, prime := false,
          phase := .exec, env := { s.env with schedule := rest } }

/-- R205: the sequencer's step on a word that is not legal is the error completion with code 1; no register, operand or not,
is touched. -/
def Obligations.AnIllegalWordEndsInIllegalCommand : Prop :=
  ∀ (s : State) (why : Illegal), s.phase = .exec → decode s.cmd = .error why →
    agentStep .sequencer s =
      .next { s with phase := .idle, done := true, err := true, errcode := 1, prime := false }

/-- R45: acceptance, its whole effect, for every word, legal or not; the interrupt line falls. -/
def Obligations.AcceptanceLatchesAndClears : Prop :=
  ∀ (s : State) (w : Word), s.phase = .idle →
    let t : State :=
      { s with
        cmd := w, klat := s.rounds, rndcnt := 0, done := false, err := false, errcode := 0, prime := false, phase := .exec }
    agentStep (.hostWrite 0x002 w) s = .next t ∧ irq t = false

/-- R44: PHASE moves only along the listed transitions, each by the agent the rule names. -/
def Obligations.PhaseMovesOnlyAsListed : Prop :=
  ∀ s t : State, step s = .next t →
    match s.phase, t.phase with
    | .idle, .idle => True
    | .idle, .exec => ∃ w, nextEvent s = .hostWrite 0x002 w
    | .idle, .rngWait => False
    | .exec, .idle => nextEvent s = .sequencer ∨ nextEvent s = .hardReset
    | .exec, .exec => nextEvent s ≠ .sequencer ∧ nextEvent s ≠ .hardReset
    | .exec, .rngWait => nextEvent s = .sequencer ∧ ∃ rs1, decode s.cmd = .ok (.ptest rs1)
    | .rngWait, .idle => nextEvent s = .hardReset ∨ ∃ a, nextEvent s = .draw a
    | .rngWait, .exec => False
    | .rngWait, .rngWait => nextEvent s ≠ .hardReset

/-- R257: in EXEC the sequencer always has a step, and with it every command but a PTEST that needs a witness completes: MODRED,
MODMUL, MODEXP, MODINV, every illegal word, and every PTEST of n <= 3, of an even n, or with no round to hold. -/
def Obligations.OneSequencerStepCompletesEveryCommandWithoutDraws : Prop :=
  ∀ s : State, s.phase = .exec →
    (∀ rs1, decode s.cmd = .ok (.ptest rs1) → readReg s rs1 ≤ 3 ∨ readReg s rs1 % 2 = 0 ∨ s.klat = 0) →
    ∃ t, agentStep .sequencer s = .next t ∧ t.phase = .idle ∧ t.done = true ∧ t.cmd = s.cmd

/-- The model's choice, not a rule of the spec: nothing stops the machine; every command on every state, and every step, answers a
next state. That no error and no refused access stops the block is deduced from R200, R204 and R66 (log entry 8, DEDUCED). That the
machine also answers a next state, the same one, where the block has no step, in IDLE and in RNGWAIT with nothing scheduled
(R245, R258), is log entry 2 (DESIGN CHOICE). -/
def Obligations.NoStepEverStopsTheMachine : Prop :=
  (∀ (i : Instr) (s : State), ∃ t, exec i s = .next t) ∧ (∀ s : State, ∃ t, step s = .next t)

/-! ## The commands with a modulus -/

/-- R184: MODRED, both branches. The destination may be a source: operands are those before the command. -/
def Obligations.ModredWritesTheRemainder : Prop :=
  ∀ (rd rs1 rs3 : Reg) (s : State),
    (readReg s rs3 ≠ 0 →
      exec (.modred rd rs1 rs3) s =
        .next { s with
          x := s.x.set rd.val (readReg s rs1 % readReg s rs3) rd.isLt, phase := .idle, done := true, err := false,
          errcode := 0, prime := false })
    ∧ (readReg s rs3 = 0 →
      exec (.modred rd rs1 rs3) s =
        .next { s with phase := .idle, done := true, err := true, errcode := 2, prime := false })

/-- R188: MODMUL, both branches: the exact product, then the remainder. -/
def Obligations.ModmulWritesTheRemainderOfTheExactProduct : Prop :=
  ∀ (rd rs1 rs2 rs3 : Reg) (s : State),
    (readReg s rs3 ≠ 0 →
      exec (.modmul rd rs1 rs2 rs3) s =
        .next { s with
          x := s.x.set rd.val (readReg s rs1 * readReg s rs2 % readReg s rs3) rd.isLt, phase := .idle, done := true,
          err := false, errcode := 0, prime := false })
    ∧ (readReg s rs3 = 0 →
      exec (.modmul rd rs1 rs2 rs3) s =
        .next { s with phase := .idle, done := true, err := true, errcode := 2, prime := false })

/-- R167: MODEXP, both branches: the remainder of the exact power, with b^0 = 1 also for b = 0. The meaning runs the binary
method of R168, so this says that the method computes the power. -/
def Obligations.ModexpWritesTheRemainderOfTheExactPower : Prop :=
  ∀ (rd rs1 rs2 rs3 : Reg) (s : State),
    (readReg s rs3 ≠ 0 →
      exec (.modexp rd rs1 rs2 rs3) s =
        .next { s with
          x := s.x.set rd.val (readReg s rs1 ^ readReg s rs2 % readReg s rs3) rd.isLt, phase := .idle, done := true,
          err := false, errcode := 0, prime := false })
    ∧ (readReg s rs3 = 0 →
      exec (.modexp rd rs1 rs2 rs3) s =
        .next { s with phase := .idle, done := true, err := true, errcode := 2, prime := false })

/-- R155, R151: when the modulus is at least 1 and the operands are coprime, ExtEuclid reports 1 and MODINV completes normally and
writes the one d in [0, m) with d * e mod m = 1 mod m; the operand e is not bounded by m (R158). -/
def Obligations.ModinvWritesTheUniqueInverse : Prop :=
  ∀ (rd rs1 rs3 : Reg) (s : State),
    1 ≤ readReg s rs3 → Nat.gcd (readReg s rs1) (readReg s rs3) = 1 →
    ∃ d, d < readReg s rs3 ∧ d * readReg s rs1 % readReg s rs3 = 1 % readReg s rs3
      ∧ (∀ d', d' < readReg s rs3 → d' * readReg s rs1 % readReg s rs3 = 1 % readReg s rs3 → d' = d)
      ∧ extEuclid (readReg s rs1) (readReg s rs3) = (1, d)
      ∧ exec (.modinv rd rs1 rs3) s =
          .next { s with
            x := s.x.set rd.val d rd.isLt, phase := .idle, done := true, err := false, errcode := 0, prime := false }

/-- R156: NoModularInverse exactly when the modulus is at least 1 and the gcd is not 1; no general register is written. -/
def Obligations.ModinvRaisesNoModularInverseExactlyWithoutCoprimality : Prop :=
  ∀ (rd rs1 rs3 : Reg) (s : State),
    (1 ≤ readReg s rs3 → Nat.gcd (readReg s rs1) (readReg s rs3) ≠ 1 →
      exec (.modinv rd rs1 rs3) s =
        .next { s with phase := .idle, done := true, err := true, errcode := 3, prime := false })
    ∧ (∀ t, exec (.modinv rd rs1 rs3) s = .next t → t.errcode = 3 →
        1 ≤ readReg s rs3 ∧ Nat.gcd (readReg s rs1) (readReg s rs3) ≠ 1)

/-- R158: the result and the outcome of MODINV depend on e only through e mod m. -/
def Obligations.ModinvDependsOnTheResidueOnly : Prop :=
  ∀ (rd rs1 rs3 : Reg) (s t s' t' : State),
    readReg s rs3 = readReg t rs3 → readReg s rs1 % readReg s rs3 = readReg t rs1 % readReg t rs3 →
    readReg s rd = readReg t rd →
    exec (.modinv rd rs1 rs3) s = .next s' → exec (.modinv rd rs1 rs3) t = .next t' →
    s'.errcode = t'.errcode ∧ readReg s' rd = readReg t' rd

/-- R190: ZeroModulus is raised by the four commands with a modulus exactly when x[rs3] = 0, tested before anything else, with no
register written; PTEST, whose first step answers a next state too, never raises it. (The premise of the converse is what acceptance
leaves, R45.) -/
def Obligations.ZeroModulusExactlyWhenTheModulusIsZero : Prop :=
  ∀ (i : Instr) (s : State),
    (∀ r, modulusReg i = some r → readReg s r = 0 →
      exec i s = .next { s with phase := .idle, done := true, err := true, errcode := 2, prime := false })
    ∧ (∀ t, s.errcode = 0 → exec i s = .next t → t.errcode = 2 → ∃ r, modulusReg i = some r ∧ readReg s r = 0)

/-- R182, D18: the modulus 1 is legal and gives the result 0 in all four commands, the inverse and x^0 included. -/
def Obligations.ModulusOneGivesZero : Prop :=
  ∀ (i : Instr) (r rd : Reg) (s : State), modulusReg i = some r → destReg i = some rd → readReg s r = 1 →
    exec i s =
      .next { s with
        x := s.x.set rd.val 0 rd.isLt, phase := .idle, done := true, err := false, errcode := 0, prime := false }

/-- R181: every result fits: after a command with a modulus that completes without error, the destination holds less than the
modulus did. -/
def Obligations.EveryResultIsBelowTheModulus : Prop :=
  ∀ (i : Instr) (r rd : Reg) (s t : State), modulusReg i = some r → destReg i = some rd →
    exec i s = .next t → t.err = false → readReg t rd < readReg s r

/-! ## Frames -/

/-- R21, R204: what MODINV, MODEXP, MODRED and MODMUL leave unchanged: every general register but rd, and everything else but PHASE and
the flags DONE, ERR, ERRCODE, PRIME; on an error rd is unchanged too. There is no memory (R60). -/
def Obligations.ModularCommandsChangeOnlyTheirDestinationAndFlags : Prop :=
  ∀ (i : Instr) (rd : Reg) (s t : State), destReg i = some rd → exec i s = .next t →
    (∀ q : Reg, q ≠ rd → readReg t q = readReg s q)
      ∧ (t.err = true → ∀ q : Reg, readReg t q = readReg s q)
      ∧ t = { s with x := t.x, phase := t.phase, done := t.done, err := t.err, errcode := t.errcode, prime := t.prime }

/-- R121, R122, R125: what the first step of PTEST leaves unchanged: every general register and everything else but PHASE, the flags
DONE, ERR, ERRCODE, PRIME, and the hidden registers PT_N, PT_R, PT_S, PT_I; RNDCNT is not advanced. -/
def Obligations.PtestChangesNoGeneralRegister : Prop :=
  ∀ (rs1 : Reg) (s t : State), exec (.ptest rs1) s = .next t →
    (∀ q : Reg, readReg t q = readReg s q)
      ∧ t = { s with
          phase := t.phase, done := t.done, err := t.err, errcode := t.errcode, prime := t.prime, ptN := t.ptN,
          ptR := t.ptR, ptS := t.ptS, ptI := t.ptI }

/-- R204: errors are precise: a command that ends in error has changed PHASE and the flags and nothing else, and in a response step
RNDCNT besides. -/
def Obligations.ErrorCompletionsArePrecise : Prop :=
  (∀ (i : Instr) (s t : State), s.err = false → exec i s = .next t → t.err = true →
      t = { s with phase := .idle, done := true, err := true, errcode := t.errcode, prime := false } ∧ t.errcode ≠ 0)
    ∧ (∀ (a : Nat) (s t : State), s.err = false → s.phase = .rngWait → agentStep (.draw a) s = .next t → t.err = true →
        t = { s with rndcnt := s.rndcnt + 1, phase := .idle, done := true, err := true, errcode := 4, prime := false })

/-- R21, R22, R68: a general register changes only by a reset, by a host write of one of its own limbs to an idle block, or by the
sequencer's step for a command that names it as rd. -/
def Obligations.OnlyTheseStepsChangeAGeneralRegister : Prop :=
  ∀ (s t : State) (e : Event) (i : Reg), agentStep e s = .next t → readReg t i ≠ readReg s i →
    e = .hardReset
      ∨ (s.phase = .idle ∧ ∃ v : Word, e = .hostWrite 0x004 v ∧ v.getLsbD 1 = true)
      ∨ (s.phase = .idle ∧ ∃ (j : Nat) (v : Word), j < s.limbs ∧ j < 128 ∧ e = .hostWrite (windowIndex i j) v)
      ∨ (s.phase = .exec ∧ e = .sequencer ∧ ∃ c, decode s.cmd = .ok c ∧ destReg c = some i)

/-- R75, R252: while a command runs no host transaction changes the general registers, CMD, ROUNDS, RNDCNT, the hidden registers or the
phase; only ACCERR, CTRL.IE, the acknowledgement of DONE and the words handed to the host can change. -/
def Obligations.HostCannotDisturbARunningCommand : Prop :=
  ∀ (s t : State) (e : Event), s.phase ≠ .idle → isHostEvent e = true → agentStep e s = .next t →
    t = { s with done := t.done, accerr := t.accerr, ie := t.ie, env := t.env }
      ∧ t.env.schedule = s.env.schedule ∧ (t.done = true → s.done = true)

/-- R251: while a command runs the port lets nothing of the general registers out: two busy blocks that differ only there answer every
host transaction alike, and still differ only there. -/
def Obligations.BusyPortRevealsNoGeneralRegister : Prop :=
  ∀ (s t : State) (y : Vector Nat 8) (e : Event), s.phase ≠ .idle → isHostEvent e = true → agentStep e s = .next t →
    agentStep e { s with x := y } = .next { t with x := y }

/-- R21, R122, R141 (PTEST), R152 (MODINV), R165, R167 (MODEXP), R184 (MODRED), R188 (MODMUL): with all other state held equal, a command's
outcome depends on no general register but its sources: two states that differ at most in general registers that are no
sources of the command get the same phase, flags and hidden registers and, where no error is raised, the same value in rd. -/
def Obligations.WithOtherStateEqualTheOutcomeDependsOnSourceRegistersOnly : Prop :=
  ∀ (i : Instr) (s t : State) (y : Vector Nat 8),
    (∀ r ∈ sourceRegs i, readReg { s with x := y } r = readReg s r) → exec i s = .next t →
    ∃ t', exec i { s with x := y } = .next t' ∧ t' = { t with x := t'.x }
      ∧ (∀ rd, destReg i = some rd → t.err = false → readReg t' rd = readReg t rd)

/-! ## The primality test -/

/-- R122 cases 1 to 3, R123, R124: the verdicts that need no witness; 2 is tested before evenness (C1). -/
def Obligations.TrivialNumbersAreDecidedWithoutDraws : Prop :=
  ∀ (rs1 : Reg) (s : State),
    ((readReg s rs1 = 2 ∨ readReg s rs1 = 3) →
      exec (.ptest rs1) s = .next { s with phase := .idle, done := true, err := false, errcode := 0, prime := true })
    ∧ (readReg s rs1 ≠ 2 → (readReg s rs1 < 2 ∨ readReg s rs1 % 2 = 0) →
      exec (.ptest rs1) s = .next { s with phase := .idle, done := true, err := false, errcode := 0, prime := false })

/-- R125, R126: for an odd n >= 5, n - 1 = r * 2^s with r odd and 1 <= s <= W - 1 is latched, PT_I starts at 0, and with KLAT >= 1 the
request (2, n - 2) is placed; with KLAT = 0 the command completes with the verdict true. -/
def Obligations.FirstStepFactorsAndPlacesTheRequest : Prop :=
  ∀ (rs1 : Reg) (s : State),
    5 ≤ readReg s rs1 → readReg s rs1 % 2 = 1 → readReg s rs1 < 2 ^ s.width →
    ∃ r e, r % 2 = 1 ∧ 1 ≤ r ∧ 1 ≤ e ∧ e ≤ s.width - 1 ∧ readReg s rs1 - 1 = r * 2 ^ e
      ∧ (s.klat ≠ 0 →
          let t : State := { s with ptN := readReg s rs1, ptR := r, ptS := e, ptI := 0, phase := .rngWait }
          exec (.ptest rs1) s = .next t ∧ request t = some (2, readReg s rs1 - 2))
      ∧ (s.klat = 0 →
          exec (.ptest rs1) s =
            .next { s with
              ptN := readReg s rs1, ptR := r, ptS := e, ptI := 0, phase := .idle, done := true, err := false, errcode := 0,
              prime := true })

/-- R128: an answer outside [2, PT_N - 2] ends the PTEST with the error RngRange, code 4, after it has been counted; PRIME is 0. -/
def Obligations.AnAnswerOutOfRangeRaisesRngRange : Prop :=
  ∀ (a : Nat) (s : State), s.phase = .rngWait → (a < 2 ∨ a > s.ptN - 2) →
    agentStep (.draw a) s =
      .next { s with rndcnt := s.rndcnt + 1, phase := .idle, done := true, err := true, errcode := 4, prime := false }

/-- R130: a failing round ends the PTEST at once with the verdict composite; no further request is made, and RNDCNT holds
PT_I + 1 if it held PT_I before, as the invariant says. -/
def Obligations.AFailingRoundEndsWithCompositeVerdict : Prop :=
  ∀ (a : Nat) (s : State), s.phase = .rngWait → 2 ≤ a → a ≤ s.ptN - 2 → s.rndcnt = s.ptI →
    roundPasses s.ptN s.ptR s.ptS a = false →
    let t : State :=
      { s with rndcnt := s.ptI + 1, phase := .idle, done := true, err := false, errcode := 0, prime := false }
    agentStep (.draw a) s = .next t ∧ request t = none

/-- R131: a passing round advances PT_I; if that makes KLAT rounds, the PTEST ends with the verdict prime, otherwise the request
(2, PT_N - 2) stands again. -/
def Obligations.APassingRoundAdvancesTheTest : Prop :=
  ∀ (a : Nat) (s : State), s.phase = .rngWait → 2 ≤ a → a ≤ s.ptN - 2 → roundPasses s.ptN s.ptR s.ptS a = true →
    (s.ptI + 1 = s.klat →
      agentStep (.draw a) s =
        .next { s with
          rndcnt := s.rndcnt + 1, ptI := s.ptI + 1, phase := .idle, done := true, err := false, errcode := 0, prime := true })
    ∧ (s.ptI + 1 ≠ s.klat →
        let t : State := { s with rndcnt := s.rndcnt + 1, ptI := s.ptI + 1 }
        agentStep (.draw a) s = .next t ∧ request t = some (2, s.ptN - 2))

/-- R129: the round in closed form: it passes exactly when a^r mod n is 1, or a^(r * 2^j) mod n is n - 1 for some j < s. -/
def Obligations.ARoundPassesExactlyOnItsClosedForm : Prop :=
  ∀ n r e a : Nat, 5 ≤ n → 1 ≤ e →
    (roundPasses n r e a = true ↔ (a ^ r % n = 1 ∨ ∃ j, j < e ∧ a ^ (r * 2 ^ j) % n = n - 1))

/-- R138: a prime number passes every round with every witness in range, so a failing round proves the number composite. The spec
marks the rule as general knowledge. -/
def Obligations.APrimePassesEveryRound : Prop :=
  ∀ n r e a : Nat, n.Prime → 5 ≤ n → n - 1 = r * 2 ^ e → r % 2 = 1 → 2 ≤ a → a ≤ n - 2 →
    roundPasses n r e a = true

/-- R138, said of the function PT of R132: the verdict composite is never wrong, whatever the answers; and a prime number gets the
verdict prime for every number of rounds and all in-range answers. The spec marks R138 as general knowledge. -/
def Obligations.CompositeVerdictsAreSoundAndPrimesPass : Prop :=
  (∀ (n k : Nat) (a : Nat → Nat), (primalityTest n k a).1 = .composite → ¬ n.Prime)
    ∧ (∀ (n k : Nat) (a : Nat → Nat), n.Prime → (5 ≤ n → ∀ i, 1 ≤ i → i ≤ k → 2 ≤ a i ∧ a i ≤ n - 2) →
        (primalityTest n k a).1 = .prime)

/-- R132: the steps agree with the function PT. A PTEST issued to an idle block, with ROUNDS answers on offer, ends after its
acceptance, the sequencer's step and one response step per draw used, with the verdict, error code and count of the function
and no general register changed. -/
def Obligations.TheStepsOfPtestComputeTheTestFunction : Prop :=
  ∀ (s : State) (rs1 : Reg) (a : Nat → Nat), s.phase = .idle →
    s.env.schedule = scriptCommand (.ptest rs1) :: .sequencer :: answers s.rounds.toNat a →
    ∃ t, Host.Core.run core (2 + (primalityTest (readReg s rs1) s.rounds.toNat a).2) s = .next t
      ∧ t.phase = .idle ∧ t.done = true ∧ t.x = s.x
      ∧ (t.prime = true ↔ (primalityTest (readReg s rs1) s.rounds.toNat a).1 = .prime)
      ∧ (t.err = true ↔ (primalityTest (readReg s rs1) s.rounds.toNat a).1 = .rngrange)
      ∧ t.errcode = (if (primalityTest (readReg s rs1) s.rounds.toNat a).1 = .rngrange then 4 else 0)
      ∧ t.rndcnt.toNat = (primalityTest (readReg s rs1) s.rounds.toNat a).2

/-- R135 item 8, U17: the verdict prime does not say that the number is prime: a run ends with PRIME = 1 on the composite 91 after the
single draw 9. -/
def Obligations.APrimeVerdictMayBeWrong : Prop :=
  ∃ s t : State, s.phase = .idle ∧ s.rounds = 1
    ∧ s.env.schedule = [scriptCommand (.ptest 1), .sequencer, .draw 9] ∧ readReg s 1 = 91
    ∧ Host.Core.run core 3 s = .next t ∧ t.phase = .idle ∧ t.prime = true ∧ ¬ (91 : Nat).Prime

/-- R258: the one hang: as long as the schedule holds neither an answer nor the hard reset, a PTEST that waits goes on waiting,
with BUSY = 1 and RNGWAIT = 1, however many steps are taken (which agent moves: log entry 2). -/
def Obligations.ASilentRandomSourceHangsTheTest : Prop :=
  ∀ (s : State) (k : Nat), s.phase = .rngWait → (∀ e ∈ s.env.schedule, endsWaiting e = false) →
    ∃ t, Host.Core.run core k s = .next t ∧ t.phase = .rngWait ∧ (statusWord t).getLsbD 0 = true
      ∧ (statusWord t).getLsbD 6 = true ∧ request t = request s

/-- R48, R244: a response offered when no request stands does nothing, and neither reset leaves a request standing. -/
def Obligations.AnAnswerWithoutARequestDoesNothing : Prop :=
  ∀ (a : Nat) (s : State), request s = none → agentStep (.draw a) s = .next s

/-- R40: RNDCNT changes only by the answer to a standing request, which adds 1, and by acceptance and the resets, which
clear it. -/
def Obligations.RndcntCountsTheAnswersTaken : Prop :=
  ∀ (s t : State) (e : Event), agentStep e s = .next t →
    (s.phase = .rngWait → (∃ a, e = .draw a) → t.rndcnt = s.rndcnt + 1)
      ∧ (t.rndcnt ≠ s.rndcnt →
          (s.phase = .rngWait ∧ ∃ a, e = .draw a) ∨ (s.phase = .idle ∧ t.rndcnt = 0) ∨ (e = .hardReset ∧ t.rndcnt = 0))

/-! ## The host port -/

/-- R63: what a host read returns, index by index, and that a read that is performed changes no state; everything else is refused and
returns 0. -/
def Obligations.HostReadsReturnTheListedWords : Prop :=
  ∀ s : State, s.limbs ≤ 128 →
    hostRead 0x000 s = (0x4D525054, s)
      ∧ hostRead 0x001 s = (BitVec.ofNat 32 (s.limbs + 0x800), s)
      ∧ hostRead 0x002 s = (s.cmd, s)
      ∧ hostRead 0x003 s = (statusWord s, s)
      ∧ hostRead 0x004 s = (if s.ie then 1 else 0, s)
      ∧ hostRead 0x005 s = (s.rounds, s)
      ∧ hostRead 0x006 s = (s.rndcnt, s)
      ∧ (∀ (i : Reg) (j : Nat), j < s.limbs → s.phase = .idle →
          hostRead (windowIndex i j) s = (BitVec.ofNat 32 (readReg s i / 2 ^ (32 * j)), s))
      ∧ (∀ idx : Index, RefusedRead s idx → hostRead idx s = (0, { s with accerr := true }))

/-- R64: what a host write does to an idle block, index by index: STATUS, CTRL, CMD (acceptance, R45), ROUNDS and the register
window; and that on a busy block the two writes that stay open do the same (items 1 and 2). What is refused is said
in RefusedAccessesAreExactlyTheListedOnes. -/
def Obligations.HostWritesDoWhatIsListed : Prop :=
  ∀ (s : State) (v : Word), s.limbs ≤ 128 →
    hostWrite 0x003 v s =
        { s with
          done := if v.getLsbD 1 then false else s.done, accerr := if v.getLsbD 5 then false else s.accerr }
      ∧ (v.getLsbD 1 = false → hostWrite 0x004 v s = { s with ie := v.getLsbD 0 })
      ∧ (s.phase = .idle →
          hostWrite 0x002 v s =
              { s with
                cmd := v, klat := s.rounds, rndcnt := 0, done := false, err := false, errcode := 0, prime := false,
                phase := .exec }
            ∧ hostWrite 0x005 v s = { s with rounds := v }
            ∧ ∀ (i : Reg) (j : Nat), j < s.limbs →
                hostWrite (windowIndex i j) v s =
                  { s with x := s.x.set i.val (setLimb (readReg s i) j v) i.isLt })

/-- R22, R62: replacing limb j of a register's value replaces those 32 bits and no others: limb j then reads as the word written,
every other limb as before, and a value below 2^W stays below it. -/
def Obligations.WritingALimbLeavesTheOtherLimbs : Prop :=
  ∀ (v j n : Nat) (w : Word), j < n → v < 2 ^ (32 * n) →
    limb (setLimb v j w) j = w ∧ (∀ k, k ≠ j → limb (setLimb v j w) k = limb v k) ∧ setLimb v j w < 2 ^ (32 * n)

/-- R66: the complete list of refused accesses and their whole effect: a refused read returns 0, a refused write changes nothing it
was aimed at, ACCERR is set; and no other access is refused: a read changes nothing, a write does not set ACCERR. -/
def Obligations.RefusedAccessesAreExactlyTheListedOnes : Prop :=
  (∀ (s : State) (idx : Index), RefusedRead s idx → hostRead idx s = (0, { s with accerr := true }))
    ∧ (∀ (s : State) (idx : Index), ¬ RefusedRead s idx → (hostRead idx s).2 = s)
    ∧ (∀ (s : State) (idx : Index) (v : Word), RefusedWrite s idx v → hostWrite idx v s = { s with accerr := true })
    ∧ (∀ (s : State) (idx : Index) (v : Word), ¬ RefusedWrite s idx v →
        (hostWrite idx v s).accerr = true → s.accerr = true)

/-- R33: ACCERR is set by every refused host access and by nothing else, and is cleared by nothing but a write of STATUS with bit 5
set and the resets: no command, completion or acceptance clears it. -/
def Obligations.AccerrIsStickyAndSetByRefusalsOnly : Prop :=
  ∀ (s t : State) (e : Event), agentStep e s = .next t →
    (s.accerr = false → t.accerr = true →
      (∃ idx, e = .hostRead idx ∧ RefusedRead s idx) ∨ (∃ idx v, e = .hostWrite idx v ∧ RefusedWrite s idx v))
    ∧ (s.accerr = true → t.accerr = false →
        e = .hardReset ∨ (∃ v : Word, e = .hostWrite 0x003 v ∧ v.getLsbD 5 = true)
          ∨ (s.phase = .idle ∧ ∃ v : Word, e = .hostWrite 0x004 v ∧ v.getLsbD 1 = true))

/-- R28, R29, R34, R36: the layout of the STATUS word, bit by bit, with BUSY and RNGWAIT derived from PHASE and the reserved
bits 0. -/
def Obligations.StatusWordHasTheListedLayout : Prop :=
  ∀ s : State,
    (statusWord s).getLsbD 0 = decide (s.phase ≠ .idle) ∧ (statusWord s).getLsbD 1 = s.done
      ∧ (statusWord s).getLsbD 2 = s.err ∧ (statusWord s).getLsbD 3 = s.prime ∧ (statusWord s).getLsbD 4 = false
      ∧ (statusWord s).getLsbD 5 = s.accerr ∧ (statusWord s).getLsbD 6 = decide (s.phase = .rngWait)
      ∧ (statusWord s).getLsbD 7 = false ∧ (∀ k, k < 8 → (statusWord s).getLsbD (8 + k) = s.errcode.getLsbD k)
      ∧ (∀ k, 16 ≤ k → (statusWord s).getLsbD k = false)

/-- R69: reading any index twice with no other step between returns the same word twice, also when the read is refused. -/
def Obligations.ReadingTwiceReturnsTheSameWord : Prop :=
  ∀ (s : State) (idx : Index), (hostRead idx (hostRead idx s).2).1 = (hostRead idx s).1

/-- R77, R61, R62: the LIMBS writes of `WR xi, v` to an idle block leave x[i] = v, whatever it held, and change nothing else. -/
def Obligations.LoadingEveryLimbLoadsTheValue : Prop :=
  ∀ (s : State) (i : Reg) (v : Nat) (rest : List Event), s.phase = .idle → s.limbs ≤ 128 →
    readReg s i < 2 ^ s.width → v < 2 ^ s.width → s.env.schedule = scriptWr s.limbs i v ++ rest →
    Host.Core.run core s.limbs s =
      .next { s with x := s.x.set i.val v i.isLt, env := { s.env with schedule := rest } }

/-- R77, R61, R62: the LIMBS reads of `RD xi` from an idle block return words whose sum over word(j) * 2^(32*j) is x[i], and
change nothing of the block. -/
def Obligations.ReadingEveryLimbReturnsTheValue : Prop :=
  ∀ (s : State) (i : Reg) (rest : List Event), s.phase = .idle → s.limbs ≤ 128 → readReg s i < 2 ^ s.width →
    s.env.schedule = scriptRd s.limbs i ++ rest →
    ∃ ws : List Word, ws.length = s.limbs ∧ joinLimbs ws = readReg s i
      ∧ Host.Core.run core s.limbs s =
          .next { s with env := { schedule := rest, reads := ws.reverse ++ s.env.reads } }

/-- R41, R210: `irq` is CTRL.IE AND STATUS.DONE; `ACK` lowers it and leaves ERR, ERRCODE, PRIME and RNDCNT readable (R213); clearing IE
masks it without clearing DONE. -/
def Obligations.TheInterruptLineFollowsDoneAndItsEnable : Prop :=
  ∀ s : State,
    irq s = (s.ie && s.done)
      ∧ agentStep scriptAck s = .next { s with done := false } ∧ irq { s with done := false } = false
      ∧ agentStep scriptIrqOff s = .next { s with ie := false } ∧ irq { s with ie := false } = false
      ∧ agentStep scriptIrqOn s = .next { s with ie := true } ∧ irq { s with ie := true } = s.done

/-! ## The system the block serves -/

/-- R174: the round trip of textbook RSA as two MODEXP commands: for distinct primes p and q, n = p * q in the modulus register and
d * e = 1 modulo lcm(p - 1, q - 1), decrypting the encryption of any m in [0, n) gives m back, provided the first command does
not overwrite the modulus or d (R255). The spec marks the general form as general knowledge. -/
def Obligations.DecryptingAnEncryptedMessageGivesItBack : Prop :=
  ∀ (p q : Nat) (c m e n r d : Reg) (s s₁ s₂ : State), p.Prime → q.Prime → p ≠ q → readReg s n = p * q →
    readReg s d * readReg s e % Nat.lcm (p - 1) (q - 1) = 1 % Nat.lcm (p - 1) (q - 1) → readReg s m < p * q →
    c ≠ n → c ≠ d →
    exec (Instr.encrypt c m e n) s = .next s₁ → exec (Instr.decrypt r c d n) s₁ = .next s₂ →
    readReg s₂ r = readReg s m
end

