-- ==== Sys2Proof/Laws/Arith.lean ====
section
/-! SUPPORT. One lemma for each arithmetic unit, which says what it computes (R153, R168, R125). -/

namespace Sys2Proof.Machine

/-- A value has no bit at or above its bit length (R7). -/
theorem lt_two_pow_bitlen (v : Nat) : v < 2 ^ bitlen v := by
  unfold bitlen
  split
  · simp_all
  · exact Nat.lt_log2_self

/-- The turn of `ModExp` for one bit: the accumulator of the bits above becomes that of the bits from here up. -/
theorem modExp_turn (b e m i : Nat) :
    (if e.testBit i then mulMod (mulMod (b ^ (e / 2 ^ (i + 1)) % m) (b ^ (e / 2 ^ (i + 1)) % m) m) b m
      else mulMod (b ^ (e / 2 ^ (i + 1)) % m) (b ^ (e / 2 ^ (i + 1)) % m) m) = b ^ (e / 2 ^ i) % m := by
  have hd : e / 2 ^ (i + 1) = e / 2 ^ i / 2 := by rw [pow_succ, Nat.div_div_eq_div_mul]
  have hbit : e.testBit i = decide (e / 2 ^ i % 2 = 1) := Nat.testBit_eq_decide_div_mod_eq
  have hsq : ∀ k : Nat, b ^ k % m * (b ^ k % m) % m = b ^ (2 * k) % m := fun k => by
    rw [← Nat.mul_mod, ← pow_add, two_mul]
  rw [hd, hbit]
  by_cases h : e / 2 ^ i % 2 = 1
  · have hk : e / 2 ^ i = 2 * (e / 2 ^ i / 2) + 1 := by omega
    simp only [h, decide_true, if_true, mulMod, redMod]
    rw [hsq, Nat.mod_mul_mod, ← pow_succ, ← hk]
  · have hk : e / 2 ^ i = 2 * (e / 2 ^ i / 2) := by omega
    simp only [h, decide_false, mulMod, redMod]
    rw [if_neg (by simp), hsq, ← hk]

/-- The invariant of the loop of `ModExp`: from the accumulator of the bits at `i` and above it reaches the whole power. -/
theorem modExpLoop_eq (b e m i : Nat) : modExpLoop b e m i (b ^ (e / 2 ^ i) % m) = b ^ e % m := by
  induction i with
  | zero => simp [modExpLoop]
  | succ i ih =>
    rw [modExpLoop, modExp_turn]
    exact ih

/-- `ModExp` computes the remainder of the exact power (R167, R168). -/
theorem modExp_eq (b e m : Nat) : modExp b e m = b ^ e % m := by
  have h : e / 2 ^ bitlen e = 0 := Nat.div_eq_of_lt (lt_two_pow_bitlen e)
  have := modExpLoop_eq b e m (bitlen e)
  rwa [h, pow_zero] at this

/-- A coefficient reduced by the never-negative `mod` (R8) stands in [0, m) and is congruent to what was reduced. -/
theorem toNat_emod_lt (z : Int) (m : Nat) (hm : 0 < m) :
    (z % (m : Int)).toNat < m ∧ (((z % (m : Int)).toNat : Int) ≡ z [ZMOD m]) := by
  have h0 : 0 ≤ z % (m : Int) := Int.emod_nonneg _ (by omega)
  have h1 : z % (m : Int) < m := Int.emod_lt_of_pos _ (by omega)
  refine ⟨by omega, ?_⟩
  rw [Int.toNat_of_nonneg h0]
  exact Int.mod_modEq _ _

/-- The loop of `ExtEuclid` (R153), given more turns than its remainder r1, returns the greatest common divisor and a coefficient in
[0, m) that is congruent to it: the invariant of R153. -/
theorem extEuclidLoop_spec (e m : Nat) (hm : 0 < m) (k r0 r1 t0 t1 : Nat) (hk : r1 < k) (ht0 : t0 < m) (ht1 : t1 < m)
    (h0 : (t0 * e : Int) ≡ r0 [ZMOD m]) (h1 : (t1 * e : Int) ≡ r1 [ZMOD m]) :
    (extEuclidLoop m k r0 r1 t0 t1).1 = Nat.gcd r0 r1 ∧ (extEuclidLoop m k r0 r1 t0 t1).2 < m
      ∧ ((extEuclidLoop m k r0 r1 t0 t1).2 * e : Int) ≡ (Nat.gcd r0 r1 : Nat) [ZMOD m] := by
  induction k generalizing r0 r1 t0 t1 with
  | zero => omega
  | succ k ih =>
    by_cases hr : r1 = 0
    · subst hr
      simp [extEuclidLoop, ht0, h0]
    · have hrem : r0 - r0 / r1 * r1 = r0 % r1 := by
        have := Nat.div_add_mod' r0 r1
        omega
      have hlt : r0 % r1 < r1 := Nat.mod_lt _ (by omega)
      obtain ⟨hc, hcong⟩ := toNat_emod_lt ((t0 : Int) - ((r0 / r1 : Nat) : Int) * (t1 : Int)) m hm
      have hnew : (((((t0 : Int) - ((r0 / r1 : Nat) : Int) * (t1 : Int)) % (m : Int)).toNat : Int) * e) ≡ ((r0 % r1 : Nat) : Int) [ZMOD m] := by
        have hq : ((r0 % r1 : Nat) : Int) = (r0 : Int) - ((r0 / r1 : Nat) : Int) * (r1 : Int) := by
          have h := Nat.div_add_mod' r0 r1
          have h' : ((r0 / r1 : Nat) : Int) * (r1 : Int) + ((r0 % r1 : Nat) : Int) = (r0 : Int) := by exact_mod_cast h
          omega
        rw [hq]
        refine (hcong.mul_right _).trans ?_
        rw [sub_mul, mul_assoc]
        exact h0.sub (h1.mul_left _)
      have hg : Nat.gcd r1 (r0 % r1) = Nat.gcd r0 r1 := by
        rw [Nat.gcd_comm r0 r1, Nat.gcd_rec r1 r0, Nat.gcd_comm]
      have := ih r1 (r0 % r1) t1 _ (by omega) ht1 hc h1 hnew
      rw [hg] at this
      simpa [extEuclidLoop, hr, hrem] using this

/-- `ExtEuclid` (R153, R155): for m >= 1, the greatest common divisor, and a coefficient of e below m. -/
theorem extEuclid_spec (e m : Nat) (hm : 0 < m) :
    (extEuclid e m).1 = Nat.gcd e m ∧ (extEuclid e m).2 < m ∧ (extEuclid e m).2 * e % m = Nat.gcd e m % m := by
  have h := extEuclidLoop_spec e m hm (e + 1) m e 0 (1 % m) (by omega) hm (Nat.mod_lt _ hm)
    (by simp [Int.modEq_iff_dvd]) (by
      have : ((1 % m : Nat) : Int) ≡ 1 [ZMOD m] := by push_cast; exact Int.mod_modEq _ _
      simpa using this.mul_right (e : Int))
  rw [Nat.gcd_comm m e] at h
  refine ⟨h.1, h.2.1, ?_⟩
  have h3 : ((((extEuclidLoop m (e + 1) m e 0 (1 % m)).2 * e : Nat)) : Int) ≡ ((Nat.gcd e m : Nat) : Int) [ZMOD m] := by
    push_cast
    exact h.2.2
  exact (Int.natCast_modEq_iff.mp h3)

/-- The loop of the factoring (R125): enough turns on r > 0 leave an odd number and count the shifts. -/
theorem factorLoop_spec (k r s : Nat) (hr : 0 < r) (hk : r < 2 ^ k) :
    (factorLoop k r s).1 % 2 = 1 ∧ s ≤ (factorLoop k r s).2
      ∧ (factorLoop k r s).1 * 2 ^ ((factorLoop k r s).2 - s) = r := by
  induction k generalizing r s with
  | zero => omega
  | succ k ih =>
    by_cases h : r % 2 = 0
    · obtain ⟨h1, h2, h3⟩ := ih (r / 2) (s + 1) (by omega) (by rw [pow_succ] at hk; omega)
      simp only [factorLoop, h, if_true]
      refine ⟨h1, by omega, ?_⟩
      have : (factorLoop k (r / 2) (s + 1)).2 - s = (factorLoop k (r / 2) (s + 1)).2 - (s + 1) + 1 := by omega
      rw [this, pow_succ, ← mul_assoc, h3]
      omega
    · simp only [factorLoop, h, if_false]
      simp
      omega

/-- The factoring (R125): v = r * 2^s with r odd, for v > 0. -/
theorem factor_spec (v : Nat) (hv : 0 < v) : (factor v).1 % 2 = 1 ∧ v = (factor v).1 * 2 ^ (factor v).2 := by
  obtain ⟨h1, -, h3⟩ := factorLoop_spec (bitlen v) v 0 hv (lt_two_pow_bitlen v)
  exact ⟨h1, by simpa [factor] using h3.symm⟩

end Sys2Proof.Machine
end

