-- ==== Sys2Proof/Laws/PerInstr.lean ====
section
/-! SUPPORT. What is said of every command as syntax, one lemma per constructor. -/

namespace Sys2Proof

/-- The fields of an assembled word are the ones it was assembled from (R91, R105). -/
theorem splitWord_encFields (op rd rs1 rs2 rs3 : Nat) (hop : op < 256) (h0 : rd < 8) (h1 : rs1 < 8) (h2 : rs2 < 8)
    (h3 : rs3 < 8) :
    splitWord (encFields op rd rs1 rs2 rs3) =
      { op := BitVec.ofNat 8 op, rd := BitVec.ofNat 3 rd, z1 := 0, rs1 := BitVec.ofNat 3 rs1, z2 := 0,
        rs2 := BitVec.ofNat 3 rs2, z3 := 0, rs3 := BitVec.ofNat 3 rs3, z4 := 0 } := by
  have hv : (encFields op rd rs1 rs2 rs3).toNat = op + 0x100 * rd + 0x1000 * rs1 + 0x10000 * rs2 + 0x100000 * rs3 := by
    simp only [encFields, BitVec.toNat_ofNat]
    omega
  simp only [splitWord, Fields.mk.injEq]
  refine ⟨?_, ?_, ?_, ?_, ?_, ?_, ?_, ?_, ?_⟩ <;>
    (apply BitVec.eq_of_toNat_eq
     simp [BitVec.extractLsb'_toNat, hv, Nat.shiftRight_eq_div_pow]
     try omega)

end Sys2Proof

namespace Sys2Proof.Laws.SpellingHasFields

/-- The word of a command has the fields of the command (R91 to R99). -/
def Statement (i : Instr) : Prop := splitWord (encode i) = i.fields

theorem ptest (rs1 : Reg) : Statement (.ptest rs1) := by
  simp [Statement, encode, splitWord_encFields, Instr.fields]

theorem modinv (rd rs1 rs3 : Reg) : Statement (.modinv rd rs1 rs3) := by
  simp [Statement, encode, splitWord_encFields, Instr.fields]

theorem modexp (rd rs1 rs2 rs3 : Reg) : Statement (.modexp rd rs1 rs2 rs3) := by
  simp [Statement, encode, splitWord_encFields, Instr.fields]

theorem modred (rd rs1 rs3 : Reg) : Statement (.modred rd rs1 rs3) := by
  simp [Statement, encode, splitWord_encFields, Instr.fields]

theorem modmul (rd rs1 rs2 rs3 : Reg) : Statement (.modmul rd rs1 rs2 rs3) := by
  simp [Statement, encode, splitWord_encFields, Instr.fields]

end Sys2Proof.Laws.SpellingHasFields
end

