-- ==== Sys2Proof/Laws/Encoding.lean ====
section
/-! SUPPORT. The words of a command as fields: what the decoder's masks say of them, and that a word is its fields. -/

namespace Sys2Proof

/-- The word with given fields, bit 31 first (R91). -/
def joinFields (f : Fields) : Word :=
  f.z4 ++ f.rs3 ++ f.z3 ++ f.rs2 ++ f.z2 ++ f.rs1 ++ f.z1 ++ f.rd ++ f.op

/-- A word is made of its fields and of nothing else (R91). -/
theorem joinFields_splitWord (w : Word) : joinFields (splitWord w) = w := by
  apply BitVec.eq_of_getLsbD_eq
  intro i hi
  simp only [joinFields, splitWord, BitVec.getLsbD_append, BitVec.getLsbD_extractLsb']
  interval_cases i <;> simp

/-- Two words with the same fields are the same word. -/
theorem splitWord_injective (w v : Word) (h : splitWord w = splitWord v) : w = v := by
  rw [← joinFields_splitWord w, h, joinFields_splitWord]

/-- Masking a word masks its fields. -/
theorem splitWord_and (w v : Word) :
    splitWord (w &&& v) =
      { op := (splitWord w).op &&& (splitWord v).op, rd := (splitWord w).rd &&& (splitWord v).rd,
        z1 := (splitWord w).z1 &&& (splitWord v).z1, rs1 := (splitWord w).rs1 &&& (splitWord v).rs1,
        z2 := (splitWord w).z2 &&& (splitWord v).z2, rs2 := (splitWord w).rs2 &&& (splitWord v).rs2,
        z3 := (splitWord w).z3 &&& (splitWord v).z3, rs3 := (splitWord w).rs3 &&& (splitWord v).rs3,
        z4 := (splitWord w).z4 &&& (splitWord v).z4 } := by
  simp only [splitWord, BitVec.extractLsb'_and]

/-- A row's mask and match, said of the fields (R93). -/
theorem matchesRow_iff (w mask mtch : Word) :
    matchesRow w mask mtch = true ↔ splitWord (w &&& mask) = splitWord mtch := by
  rw [matchesRow, beq_iff_eq]
  exact ⟨fun h => by rw [h], fun h => splitWord_injective _ _ h⟩

/-- A register is the one its own number names (R92). -/
@[simp] theorem regOf_ofFin (r : Reg) : regOf (BitVec.ofFin r) = r := rfl

end Sys2Proof
end

