-- ==== Sys2Proof/Laws/State.lean ====
section
/-! SUPPORT. Every named update of the state, field by field: what it writes and what it leaves. True by definition and in
the simp set, so that no proof unfolds a record update. -/

namespace Sys2Proof.Machine

variable (s : State)

section writeReg
variable (i : Reg) (v : Nat)
@[simp] theorem writeReg_limbs : (writeReg i v s).limbs = s.limbs := rfl
@[simp] theorem writeReg_x : (writeReg i v s).x = s.x.set i.val v i.isLt := rfl
@[simp] theorem writeReg_cmd : (writeReg i v s).cmd = s.cmd := rfl
@[simp] theorem writeReg_done : (writeReg i v s).done = s.done := rfl
@[simp] theorem writeReg_err : (writeReg i v s).err = s.err := rfl
@[simp] theorem writeReg_prime : (writeReg i v s).prime = s.prime := rfl
@[simp] theorem writeReg_accerr : (writeReg i v s).accerr = s.accerr := rfl
@[simp] theorem writeReg_errcode : (writeReg i v s).errcode = s.errcode := rfl
@[simp] theorem writeReg_ie : (writeReg i v s).ie = s.ie := rfl
@[simp] theorem writeReg_rounds : (writeReg i v s).rounds = s.rounds := rfl
@[simp] theorem writeReg_rndcnt : (writeReg i v s).rndcnt = s.rndcnt := rfl
@[simp] theorem writeReg_phase : (writeReg i v s).phase = s.phase := rfl
@[simp] theorem writeReg_klat : (writeReg i v s).klat = s.klat := rfl
@[simp] theorem writeReg_ptN : (writeReg i v s).ptN = s.ptN := rfl
@[simp] theorem writeReg_ptR : (writeReg i v s).ptR = s.ptR := rfl
@[simp] theorem writeReg_ptS : (writeReg i v s).ptS = s.ptS := rfl
@[simp] theorem writeReg_ptI : (writeReg i v s).ptI = s.ptI := rfl
@[simp] theorem writeReg_env : (writeReg i v s).env = s.env := rfl
end writeReg

section accept
variable (w : Word)
@[simp] theorem accept_limbs : (accept w s).limbs = s.limbs := rfl
@[simp] theorem accept_x : (accept w s).x = s.x := rfl
@[simp] theorem accept_cmd : (accept w s).cmd = w := rfl
@[simp] theorem accept_done : (accept w s).done = false := rfl
@[simp] theorem accept_err : (accept w s).err = false := rfl
@[simp] theorem accept_prime : (accept w s).prime = false := rfl
@[simp] theorem accept_accerr : (accept w s).accerr = s.accerr := rfl
@[simp] theorem accept_errcode : (accept w s).errcode = 0 := rfl
@[simp] theorem accept_ie : (accept w s).ie = s.ie := rfl
@[simp] theorem accept_rounds : (accept w s).rounds = s.rounds := rfl
@[simp] theorem accept_rndcnt : (accept w s).rndcnt = 0 := rfl
@[simp] theorem accept_phase : (accept w s).phase = .exec := rfl
@[simp] theorem accept_klat : (accept w s).klat = s.rounds := rfl
@[simp] theorem accept_ptN : (accept w s).ptN = s.ptN := rfl
@[simp] theorem accept_ptR : (accept w s).ptR = s.ptR := rfl
@[simp] theorem accept_ptS : (accept w s).ptS = s.ptS := rfl
@[simp] theorem accept_ptI : (accept w s).ptI = s.ptI := rfl
@[simp] theorem accept_env : (accept w s).env = s.env := rfl
end accept

section complete
variable (v : Bool)
@[simp] theorem complete_limbs : (complete v s).limbs = s.limbs := rfl
@[simp] theorem complete_x : (complete v s).x = s.x := rfl
@[simp] theorem complete_cmd : (complete v s).cmd = s.cmd := rfl
@[simp] theorem complete_done : (complete v s).done = true := rfl
@[simp] theorem complete_err : (complete v s).err = false := rfl
@[simp] theorem complete_prime : (complete v s).prime = v := rfl
@[simp] theorem complete_accerr : (complete v s).accerr = s.accerr := rfl
@[simp] theorem complete_errcode : (complete v s).errcode = 0 := rfl
@[simp] theorem complete_ie : (complete v s).ie = s.ie := rfl
@[simp] theorem complete_rounds : (complete v s).rounds = s.rounds := rfl
@[simp] theorem complete_rndcnt : (complete v s).rndcnt = s.rndcnt := rfl
@[simp] theorem complete_phase : (complete v s).phase = .idle := rfl
@[simp] theorem complete_klat : (complete v s).klat = s.klat := rfl
@[simp] theorem complete_ptN : (complete v s).ptN = s.ptN := rfl
@[simp] theorem complete_ptR : (complete v s).ptR = s.ptR := rfl
@[simp] theorem complete_ptS : (complete v s).ptS = s.ptS := rfl
@[simp] theorem complete_ptI : (complete v s).ptI = s.ptI := rfl
@[simp] theorem complete_env : (complete v s).env = s.env := rfl
end complete

section raiseError
variable (c : Cause)
@[simp] theorem raiseError_limbs : (raiseError c s).limbs = s.limbs := rfl
@[simp] theorem raiseError_x : (raiseError c s).x = s.x := rfl
@[simp] theorem raiseError_cmd : (raiseError c s).cmd = s.cmd := rfl
@[simp] theorem raiseError_done : (raiseError c s).done = true := rfl
@[simp] theorem raiseError_err : (raiseError c s).err = true := rfl
@[simp] theorem raiseError_prime : (raiseError c s).prime = false := rfl
@[simp] theorem raiseError_accerr : (raiseError c s).accerr = s.accerr := rfl
@[simp] theorem raiseError_errcode : (raiseError c s).errcode = causeCode c := rfl
@[simp] theorem raiseError_ie : (raiseError c s).ie = s.ie := rfl
@[simp] theorem raiseError_rounds : (raiseError c s).rounds = s.rounds := rfl
@[simp] theorem raiseError_rndcnt : (raiseError c s).rndcnt = s.rndcnt := rfl
@[simp] theorem raiseError_phase : (raiseError c s).phase = .idle := rfl
@[simp] theorem raiseError_klat : (raiseError c s).klat = s.klat := rfl
@[simp] theorem raiseError_ptN : (raiseError c s).ptN = s.ptN := rfl
@[simp] theorem raiseError_ptR : (raiseError c s).ptR = s.ptR := rfl
@[simp] theorem raiseError_ptS : (raiseError c s).ptS = s.ptS := rfl
@[simp] theorem raiseError_ptI : (raiseError c s).ptI = s.ptI := rfl
@[simp] theorem raiseError_env : (raiseError c s).env = s.env := rfl
end raiseError

section ackDone
@[simp] theorem ackDone_limbs : (ackDone s).limbs = s.limbs := rfl
@[simp] theorem ackDone_x : (ackDone s).x = s.x := rfl
@[simp] theorem ackDone_cmd : (ackDone s).cmd = s.cmd := rfl
@[simp] theorem ackDone_done : (ackDone s).done = false := rfl
@[simp] theorem ackDone_err : (ackDone s).err = s.err := rfl
@[simp] theorem ackDone_prime : (ackDone s).prime = s.prime := rfl
@[simp] theorem ackDone_accerr : (ackDone s).accerr = s.accerr := rfl
@[simp] theorem ackDone_errcode : (ackDone s).errcode = s.errcode := rfl
@[simp] theorem ackDone_ie : (ackDone s).ie = s.ie := rfl
@[simp] theorem ackDone_rounds : (ackDone s).rounds = s.rounds := rfl
@[simp] theorem ackDone_rndcnt : (ackDone s).rndcnt = s.rndcnt := rfl
@[simp] theorem ackDone_phase : (ackDone s).phase = s.phase := rfl
@[simp] theorem ackDone_klat : (ackDone s).klat = s.klat := rfl
@[simp] theorem ackDone_ptN : (ackDone s).ptN = s.ptN := rfl
@[simp] theorem ackDone_ptR : (ackDone s).ptR = s.ptR := rfl
@[simp] theorem ackDone_ptS : (ackDone s).ptS = s.ptS := rfl
@[simp] theorem ackDone_ptI : (ackDone s).ptI = s.ptI := rfl
@[simp] theorem ackDone_env : (ackDone s).env = s.env := rfl
end ackDone

section clearAccerr
@[simp] theorem clearAccerr_limbs : (clearAccerr s).limbs = s.limbs := rfl
@[simp] theorem clearAccerr_x : (clearAccerr s).x = s.x := rfl
@[simp] theorem clearAccerr_cmd : (clearAccerr s).cmd = s.cmd := rfl
@[simp] theorem clearAccerr_done : (clearAccerr s).done = s.done := rfl
@[simp] theorem clearAccerr_err : (clearAccerr s).err = s.err := rfl
@[simp] theorem clearAccerr_prime : (clearAccerr s).prime = s.prime := rfl
@[simp] theorem clearAccerr_accerr : (clearAccerr s).accerr = false := rfl
@[simp] theorem clearAccerr_errcode : (clearAccerr s).errcode = s.errcode := rfl
@[simp] theorem clearAccerr_ie : (clearAccerr s).ie = s.ie := rfl
@[simp] theorem clearAccerr_rounds : (clearAccerr s).rounds = s.rounds := rfl
@[simp] theorem clearAccerr_rndcnt : (clearAccerr s).rndcnt = s.rndcnt := rfl
@[simp] theorem clearAccerr_phase : (clearAccerr s).phase = s.phase := rfl
@[simp] theorem clearAccerr_klat : (clearAccerr s).klat = s.klat := rfl
@[simp] theorem clearAccerr_ptN : (clearAccerr s).ptN = s.ptN := rfl
@[simp] theorem clearAccerr_ptR : (clearAccerr s).ptR = s.ptR := rfl
@[simp] theorem clearAccerr_ptS : (clearAccerr s).ptS = s.ptS := rfl
@[simp] theorem clearAccerr_ptI : (clearAccerr s).ptI = s.ptI := rfl
@[simp] theorem clearAccerr_env : (clearAccerr s).env = s.env := rfl
end clearAccerr

section refuse
@[simp] theorem refuse_limbs : (refuse s).limbs = s.limbs := rfl
@[simp] theorem refuse_x : (refuse s).x = s.x := rfl
@[simp] theorem refuse_cmd : (refuse s).cmd = s.cmd := rfl
@[simp] theorem refuse_done : (refuse s).done = s.done := rfl
@[simp] theorem refuse_err : (refuse s).err = s.err := rfl
@[simp] theorem refuse_prime : (refuse s).prime = s.prime := rfl
@[simp] theorem refuse_accerr : (refuse s).accerr = true := rfl
@[simp] theorem refuse_errcode : (refuse s).errcode = s.errcode := rfl
@[simp] theorem refuse_ie : (refuse s).ie = s.ie := rfl
@[simp] theorem refuse_rounds : (refuse s).rounds = s.rounds := rfl
@[simp] theorem refuse_rndcnt : (refuse s).rndcnt = s.rndcnt := rfl
@[simp] theorem refuse_phase : (refuse s).phase = s.phase := rfl
@[simp] theorem refuse_klat : (refuse s).klat = s.klat := rfl
@[simp] theorem refuse_ptN : (refuse s).ptN = s.ptN := rfl
@[simp] theorem refuse_ptR : (refuse s).ptR = s.ptR := rfl
@[simp] theorem refuse_ptS : (refuse s).ptS = s.ptS := rfl
@[simp] theorem refuse_ptI : (refuse s).ptI = s.ptI := rfl
@[simp] theorem refuse_env : (refuse s).env = s.env := rfl
end refuse

section resetBlock
@[simp] theorem resetBlock_limbs : (resetBlock s).limbs = s.limbs := rfl
@[simp] theorem resetBlock_x : (resetBlock s).x = Vector.replicate 8 0 := rfl
@[simp] theorem resetBlock_cmd : (resetBlock s).cmd = 0 := rfl
@[simp] theorem resetBlock_done : (resetBlock s).done = false := rfl
@[simp] theorem resetBlock_err : (resetBlock s).err = false := rfl
@[simp] theorem resetBlock_prime : (resetBlock s).prime = false := rfl
@[simp] theorem resetBlock_accerr : (resetBlock s).accerr = false := rfl
@[simp] theorem resetBlock_errcode : (resetBlock s).errcode = 0 := rfl
@[simp] theorem resetBlock_ie : (resetBlock s).ie = false := rfl
@[simp] theorem resetBlock_rounds : (resetBlock s).rounds = Config.roundsReset := rfl
@[simp] theorem resetBlock_rndcnt : (resetBlock s).rndcnt = 0 := rfl
@[simp] theorem resetBlock_phase : (resetBlock s).phase = .idle := rfl
@[simp] theorem resetBlock_klat : (resetBlock s).klat = 0 := rfl
@[simp] theorem resetBlock_ptN : (resetBlock s).ptN = 0 := rfl
@[simp] theorem resetBlock_ptR : (resetBlock s).ptR = 0 := rfl
@[simp] theorem resetBlock_ptS : (resetBlock s).ptS = 0 := rfl
@[simp] theorem resetBlock_ptI : (resetBlock s).ptI = 0 := rfl
@[simp] theorem resetBlock_env : (resetBlock s).env = s.env := rfl
end resetBlock

section countDraw
@[simp] theorem countDraw_limbs : (countDraw s).limbs = s.limbs := rfl
@[simp] theorem countDraw_x : (countDraw s).x = s.x := rfl
@[simp] theorem countDraw_cmd : (countDraw s).cmd = s.cmd := rfl
@[simp] theorem countDraw_done : (countDraw s).done = s.done := rfl
@[simp] theorem countDraw_err : (countDraw s).err = s.err := rfl
@[simp] theorem countDraw_prime : (countDraw s).prime = s.prime := rfl
@[simp] theorem countDraw_accerr : (countDraw s).accerr = s.accerr := rfl
@[simp] theorem countDraw_errcode : (countDraw s).errcode = s.errcode := rfl
@[simp] theorem countDraw_ie : (countDraw s).ie = s.ie := rfl
@[simp] theorem countDraw_rounds : (countDraw s).rounds = s.rounds := rfl
@[simp] theorem countDraw_rndcnt : (countDraw s).rndcnt = s.rndcnt + 1 := rfl
@[simp] theorem countDraw_phase : (countDraw s).phase = s.phase := rfl
@[simp] theorem countDraw_klat : (countDraw s).klat = s.klat := rfl
@[simp] theorem countDraw_ptN : (countDraw s).ptN = s.ptN := rfl
@[simp] theorem countDraw_ptR : (countDraw s).ptR = s.ptR := rfl
@[simp] theorem countDraw_ptS : (countDraw s).ptS = s.ptS := rfl
@[simp] theorem countDraw_ptI : (countDraw s).ptI = s.ptI := rfl
@[simp] theorem countDraw_env : (countDraw s).env = s.env := rfl
end countDraw

section latchTest
variable (n r e : Nat)
@[simp] theorem latchTest_limbs : (latchTest n r e s).limbs = s.limbs := rfl
@[simp] theorem latchTest_x : (latchTest n r e s).x = s.x := rfl
@[simp] theorem latchTest_cmd : (latchTest n r e s).cmd = s.cmd := rfl
@[simp] theorem latchTest_done : (latchTest n r e s).done = s.done := rfl
@[simp] theorem latchTest_err : (latchTest n r e s).err = s.err := rfl
@[simp] theorem latchTest_prime : (latchTest n r e s).prime = s.prime := rfl
@[simp] theorem latchTest_accerr : (latchTest n r e s).accerr = s.accerr := rfl
@[simp] theorem latchTest_errcode : (latchTest n r e s).errcode = s.errcode := rfl
@[simp] theorem latchTest_ie : (latchTest n r e s).ie = s.ie := rfl
@[simp] theorem latchTest_rounds : (latchTest n r e s).rounds = s.rounds := rfl
@[simp] theorem latchTest_rndcnt : (latchTest n r e s).rndcnt = s.rndcnt := rfl
@[simp] theorem latchTest_phase : (latchTest n r e s).phase = s.phase := rfl
@[simp] theorem latchTest_klat : (latchTest n r e s).klat = s.klat := rfl
@[simp] theorem latchTest_ptN : (latchTest n r e s).ptN = n := rfl
@[simp] theorem latchTest_ptR : (latchTest n r e s).ptR = r := rfl
@[simp] theorem latchTest_ptS : (latchTest n r e s).ptS = e := rfl
@[simp] theorem latchTest_ptI : (latchTest n r e s).ptI = 0 := rfl
@[simp] theorem latchTest_env : (latchTest n r e s).env = s.env := rfl
end latchTest

section awaitDraw
@[simp] theorem awaitDraw_limbs : (awaitDraw s).limbs = s.limbs := rfl
@[simp] theorem awaitDraw_x : (awaitDraw s).x = s.x := rfl
@[simp] theorem awaitDraw_cmd : (awaitDraw s).cmd = s.cmd := rfl
@[simp] theorem awaitDraw_done : (awaitDraw s).done = s.done := rfl
@[simp] theorem awaitDraw_err : (awaitDraw s).err = s.err := rfl
@[simp] theorem awaitDraw_prime : (awaitDraw s).prime = s.prime := rfl
@[simp] theorem awaitDraw_accerr : (awaitDraw s).accerr = s.accerr := rfl
@[simp] theorem awaitDraw_errcode : (awaitDraw s).errcode = s.errcode := rfl
@[simp] theorem awaitDraw_ie : (awaitDraw s).ie = s.ie := rfl
@[simp] theorem awaitDraw_rounds : (awaitDraw s).rounds = s.rounds := rfl
@[simp] theorem awaitDraw_rndcnt : (awaitDraw s).rndcnt = s.rndcnt := rfl
@[simp] theorem awaitDraw_phase : (awaitDraw s).phase = .rngWait := rfl
@[simp] theorem awaitDraw_klat : (awaitDraw s).klat = s.klat := rfl
@[simp] theorem awaitDraw_ptN : (awaitDraw s).ptN = s.ptN := rfl
@[simp] theorem awaitDraw_ptR : (awaitDraw s).ptR = s.ptR := rfl
@[simp] theorem awaitDraw_ptS : (awaitDraw s).ptS = s.ptS := rfl
@[simp] theorem awaitDraw_ptI : (awaitDraw s).ptI = s.ptI := rfl
@[simp] theorem awaitDraw_env : (awaitDraw s).env = s.env := rfl
end awaitDraw

section passRound
@[simp] theorem passRound_limbs : (passRound s).limbs = s.limbs := rfl
@[simp] theorem passRound_x : (passRound s).x = s.x := rfl
@[simp] theorem passRound_cmd : (passRound s).cmd = s.cmd := rfl
@[simp] theorem passRound_done : (passRound s).done = s.done := rfl
@[simp] theorem passRound_err : (passRound s).err = s.err := rfl
@[simp] theorem passRound_prime : (passRound s).prime = s.prime := rfl
@[simp] theorem passRound_accerr : (passRound s).accerr = s.accerr := rfl
@[simp] theorem passRound_errcode : (passRound s).errcode = s.errcode := rfl
@[simp] theorem passRound_ie : (passRound s).ie = s.ie := rfl
@[simp] theorem passRound_rounds : (passRound s).rounds = s.rounds := rfl
@[simp] theorem passRound_rndcnt : (passRound s).rndcnt = s.rndcnt := rfl
@[simp] theorem passRound_phase : (passRound s).phase = s.phase := rfl
@[simp] theorem passRound_klat : (passRound s).klat = s.klat := rfl
@[simp] theorem passRound_ptN : (passRound s).ptN = s.ptN := rfl
@[simp] theorem passRound_ptR : (passRound s).ptR = s.ptR := rfl
@[simp] theorem passRound_ptS : (passRound s).ptS = s.ptS := rfl
@[simp] theorem passRound_ptI : (passRound s).ptI = s.ptI + 1 := rfl
@[simp] theorem passRound_env : (passRound s).env = s.env := rfl
end passRound

section popEvent
@[simp] theorem popEvent_limbs : (popEvent s).limbs = s.limbs := rfl
@[simp] theorem popEvent_x : (popEvent s).x = s.x := rfl
@[simp] theorem popEvent_cmd : (popEvent s).cmd = s.cmd := rfl
@[simp] theorem popEvent_done : (popEvent s).done = s.done := rfl
@[simp] theorem popEvent_err : (popEvent s).err = s.err := rfl
@[simp] theorem popEvent_prime : (popEvent s).prime = s.prime := rfl
@[simp] theorem popEvent_accerr : (popEvent s).accerr = s.accerr := rfl
@[simp] theorem popEvent_errcode : (popEvent s).errcode = s.errcode := rfl
@[simp] theorem popEvent_ie : (popEvent s).ie = s.ie := rfl
@[simp] theorem popEvent_rounds : (popEvent s).rounds = s.rounds := rfl
@[simp] theorem popEvent_rndcnt : (popEvent s).rndcnt = s.rndcnt := rfl
@[simp] theorem popEvent_phase : (popEvent s).phase = s.phase := rfl
@[simp] theorem popEvent_klat : (popEvent s).klat = s.klat := rfl
@[simp] theorem popEvent_ptN : (popEvent s).ptN = s.ptN := rfl
@[simp] theorem popEvent_ptR : (popEvent s).ptR = s.ptR := rfl
@[simp] theorem popEvent_ptS : (popEvent s).ptS = s.ptS := rfl
@[simp] theorem popEvent_ptI : (popEvent s).ptI = s.ptI := rfl
@[simp] theorem popEvent_env : (popEvent s).env = { s.env with schedule := s.env.schedule.tail } := rfl
end popEvent

section pushEvent
variable (e : Event)
@[simp] theorem pushEvent_limbs : (pushEvent e s).limbs = s.limbs := rfl
@[simp] theorem pushEvent_x : (pushEvent e s).x = s.x := rfl
@[simp] theorem pushEvent_cmd : (pushEvent e s).cmd = s.cmd := rfl
@[simp] theorem pushEvent_done : (pushEvent e s).done = s.done := rfl
@[simp] theorem pushEvent_err : (pushEvent e s).err = s.err := rfl
@[simp] theorem pushEvent_prime : (pushEvent e s).prime = s.prime := rfl
@[simp] theorem pushEvent_accerr : (pushEvent e s).accerr = s.accerr := rfl
@[simp] theorem pushEvent_errcode : (pushEvent e s).errcode = s.errcode := rfl
@[simp] theorem pushEvent_ie : (pushEvent e s).ie = s.ie := rfl
@[simp] theorem pushEvent_rounds : (pushEvent e s).rounds = s.rounds := rfl
@[simp] theorem pushEvent_rndcnt : (pushEvent e s).rndcnt = s.rndcnt := rfl
@[simp] theorem pushEvent_phase : (pushEvent e s).phase = s.phase := rfl
@[simp] theorem pushEvent_klat : (pushEvent e s).klat = s.klat := rfl
@[simp] theorem pushEvent_ptN : (pushEvent e s).ptN = s.ptN := rfl
@[simp] theorem pushEvent_ptR : (pushEvent e s).ptR = s.ptR := rfl
@[simp] theorem pushEvent_ptS : (pushEvent e s).ptS = s.ptS := rfl
@[simp] theorem pushEvent_ptI : (pushEvent e s).ptI = s.ptI := rfl
@[simp] theorem pushEvent_env : (pushEvent e s).env = { s.env with schedule := e :: s.env.schedule } := rfl
end pushEvent

section deliver
variable (w : Word)
@[simp] theorem deliver_limbs : (deliver w s).limbs = s.limbs := rfl
@[simp] theorem deliver_x : (deliver w s).x = s.x := rfl
@[simp] theorem deliver_cmd : (deliver w s).cmd = s.cmd := rfl
@[simp] theorem deliver_done : (deliver w s).done = s.done := rfl
@[simp] theorem deliver_err : (deliver w s).err = s.err := rfl
@[simp] theorem deliver_prime : (deliver w s).prime = s.prime := rfl
@[simp] theorem deliver_accerr : (deliver w s).accerr = s.accerr := rfl
@[simp] theorem deliver_errcode : (deliver w s).errcode = s.errcode := rfl
@[simp] theorem deliver_ie : (deliver w s).ie = s.ie := rfl
@[simp] theorem deliver_rounds : (deliver w s).rounds = s.rounds := rfl
@[simp] theorem deliver_rndcnt : (deliver w s).rndcnt = s.rndcnt := rfl
@[simp] theorem deliver_phase : (deliver w s).phase = s.phase := rfl
@[simp] theorem deliver_klat : (deliver w s).klat = s.klat := rfl
@[simp] theorem deliver_ptN : (deliver w s).ptN = s.ptN := rfl
@[simp] theorem deliver_ptR : (deliver w s).ptR = s.ptR := rfl
@[simp] theorem deliver_ptS : (deliver w s).ptS = s.ptS := rfl
@[simp] theorem deliver_ptI : (deliver w s).ptI = s.ptI := rfl
@[simp] theorem deliver_env : (deliver w s).env = { s.env with reads := w :: s.env.reads } := rfl
end deliver

section writeRounds
variable (v : Word)
@[simp] theorem writeRounds_limbs : (writeRounds v s).limbs = s.limbs := rfl
@[simp] theorem writeRounds_x : (writeRounds v s).x = s.x := rfl
@[simp] theorem writeRounds_cmd : (writeRounds v s).cmd = s.cmd := rfl
@[simp] theorem writeRounds_done : (writeRounds v s).done = s.done := rfl
@[simp] theorem writeRounds_err : (writeRounds v s).err = s.err := rfl
@[simp] theorem writeRounds_prime : (writeRounds v s).prime = s.prime := rfl
@[simp] theorem writeRounds_accerr : (writeRounds v s).accerr = s.accerr := rfl
@[simp] theorem writeRounds_errcode : (writeRounds v s).errcode = s.errcode := rfl
@[simp] theorem writeRounds_ie : (writeRounds v s).ie = s.ie := rfl
@[simp] theorem writeRounds_rounds : (writeRounds v s).rounds = v := rfl
@[simp] theorem writeRounds_rndcnt : (writeRounds v s).rndcnt = s.rndcnt := rfl
@[simp] theorem writeRounds_phase : (writeRounds v s).phase = s.phase := rfl
@[simp] theorem writeRounds_klat : (writeRounds v s).klat = s.klat := rfl
@[simp] theorem writeRounds_ptN : (writeRounds v s).ptN = s.ptN := rfl
@[simp] theorem writeRounds_ptR : (writeRounds v s).ptR = s.ptR := rfl
@[simp] theorem writeRounds_ptS : (writeRounds v s).ptS = s.ptS := rfl
@[simp] theorem writeRounds_ptI : (writeRounds v s).ptI = s.ptI := rfl
@[simp] theorem writeRounds_env : (writeRounds v s).env = s.env := rfl
end writeRounds

/-- A register reads as the value last written to it. -/
@[simp] theorem readReg_writeReg_same (i : Reg) (v : Nat) : readReg (writeReg i v s) i = v := by
  simp [readReg]

/-- Writing one register leaves the others. -/
theorem readReg_writeReg_ne (i j : Reg) (v : Nat) (h : j ≠ i) : readReg (writeReg i v s) j = readReg s j := by
  have : i.val ≠ j.val := fun e => h (Fin.ext e.symm)
  simp [readReg, this]

/-- Every register reads 0 after a reset (R23). -/
@[simp] theorem readReg_resetBlock (i : Reg) : readReg (resetBlock s) i = 0 := by
  simp [readReg]

/-! The updates that leave the general registers. -/

@[simp] theorem readReg_accept (i : Reg) (w : Word) : readReg (accept w s) i = readReg s i := rfl
@[simp] theorem readReg_complete (i : Reg) (v : Bool) : readReg (complete v s) i = readReg s i := rfl
@[simp] theorem readReg_raiseError (i : Reg) (c : Cause) : readReg (raiseError c s) i = readReg s i := rfl
@[simp] theorem readReg_ackDone (i : Reg) : readReg (ackDone s) i = readReg s i := rfl
@[simp] theorem readReg_clearAccerr (i : Reg) : readReg (clearAccerr s) i = readReg s i := rfl
@[simp] theorem readReg_refuse (i : Reg) : readReg (refuse s) i = readReg s i := rfl
@[simp] theorem readReg_countDraw (i : Reg) : readReg (countDraw s) i = readReg s i := rfl
@[simp] theorem readReg_latchTest (i : Reg) (n r e : Nat) : readReg (latchTest n r e s) i = readReg s i := rfl
@[simp] theorem readReg_awaitDraw (i : Reg) : readReg (awaitDraw s) i = readReg s i := rfl
@[simp] theorem readReg_passRound (i : Reg) : readReg (passRound s) i = readReg s i := rfl
@[simp] theorem readReg_popEvent (i : Reg) : readReg (popEvent s) i = readReg s i := rfl
@[simp] theorem readReg_pushEvent (i : Reg) (e : Event) : readReg (pushEvent e s) i = readReg s i := rfl
@[simp] theorem readReg_deliver (i : Reg) (w : Word) : readReg (deliver w s) i = readReg s i := rfl
@[simp] theorem readReg_writeRounds (i : Reg) (v : Word) : readReg (writeRounds v s) i = readReg s i := rfl

/-- A read looks at the registers only. -/
theorem readReg_congr (t : State) (h : t.x = s.x) (i : Reg) : readReg t i = readReg s i := by
  simp [readReg, h]

end Sys2Proof.Machine
end

