-- ==== Sys2Proof/Laws/Steps.lean ====
section
/-! SUPPORT. What each shared operation can do, said once: the index map, the two host transactions, the meanings of the commands,
the response step and the machine's step. -/

namespace Sys2Proof.Machine

open Sys2Proof.Safety

/-- A result is read back from its register. -/
@[simp] theorem readReg_writeResult_same (i : Reg) (v : Nat) (s : State) : readReg (writeResult i v s) i = v := by
  simp [writeResult]

/-- A result leaves the other registers. -/
theorem readReg_writeResult_ne (i j : Reg) (v : Nat) (s : State) (h : j ≠ i) :
    readReg (writeResult i v s) j = readReg s j := by
  simp [writeResult, readReg_writeReg_ne s i j v h]

/-- Between the control registers and the register window nothing is mapped (R65). -/
theorem target_gap (n : Nat) (idx : Index) (h : 7 ≤ idx.toNat) (hw : idx.toNat < 0x400) : target n idx = .unmapped := by
  simp only [target, Config.regBase]
  repeat rw [if_neg (by omega)]
  exact if_pos hw

/-- In the register window an index names a limb the block has, or nothing (R61, R65). -/
theorem target_inWindow (n : Nat) (idx : Index) (h : 0x400 ≤ idx.toNat) :
    target n idx = if windowLimb idx < n then .window (windowReg idx) (windowLimb idx) else .unmapped := by
  simp only [target, Config.regBase]
  repeat rw [if_neg (by omega)]

/-- A window index names the limb it was made for (R61). -/
theorem target_windowIndex (n : Nat) (i : Reg) (j : Nat) (hj : j < n) (hn : n ≤ 128) :
    target n (windowIndex i j) = .window i j := by
  have hi := i.isLt
  have hv : (windowIndex i j).toNat = 0x400 + 0x80 * i.val + j := by
    simp only [windowIndex, Config.regBase, Config.regStride, BitVec.toNat_ofNat]
    exact Nat.mod_eq_of_lt (by omega)
  have hl : windowLimb (windowIndex i j) = j := by
    simp only [windowLimb, hv, Config.regBase, Config.regStride]
    omega
  have hr : windowReg (windowIndex i j) = i := by
    apply Fin.ext
    simp only [windowReg, hv, Config.regBase, Config.regStride, Fin.ofNat]
    omega
  rw [target_inWindow n _ (by omega), hl, hr, if_pos hj]

/-- The index map, index by index (R70): what each of the 2048 indices names. -/
theorem target_cases (n : Nat) (idx : Index) :
    (idx = 0 ∧ target n idx = .id) ∨ (idx = 1 ∧ target n idx = .param) ∨ (idx = 2 ∧ target n idx = .cmd)
      ∨ (idx = 3 ∧ target n idx = .status) ∨ (idx = 4 ∧ target n idx = .ctrl) ∨ (idx = 5 ∧ target n idx = .rounds)
      ∨ (idx = 6 ∧ target n idx = .rndcnt)
      ∨ (0x400 ≤ idx.toNat ∧ Mapped n idx ∧ windowLimb idx < n ∧ windowLimb idx < 128
          ∧ idx = windowIndex (windowReg idx) (windowLimb idx)
          ∧ target n idx = .window (windowReg idx) (windowLimb idx))
      ∨ (7 ≤ idx.toNat ∧ ¬ Mapped n idx ∧ target n idx = .unmapped) := by
  have hlt := idx.isLt
  by_cases h : idx.toNat ≤ 6
  · have h7 : idx.toNat = 0 ∨ idx.toNat = 1 ∨ idx.toNat = 2 ∨ idx.toNat = 3 ∨ idx.toNat = 4 ∨ idx.toNat = 5
        ∨ idx.toNat = 6 := by omega
    have he : ∀ k : Nat, k ≤ 6 → idx.toNat = k → idx = BitVec.ofNat 11 k := fun k _ hk => by
      rw [← hk, BitVec.ofNat_toNat, BitVec.setWidth_eq]
    rcases h7 with h | h | h | h | h | h | h <;> have := he _ (by omega) h <;> subst this <;> simp [target]
  · have hl : windowLimb idx = (idx.toNat - 0x400) % 128 := rfl
    by_cases hw : 0x400 ≤ idx.toNat ∧ windowLimb idx < n
    · refine .inr (.inr (.inr (.inr (.inr (.inr (.inr (.inl ⟨hw.1, .inr ⟨hw.1, by have := hw.2; rwa [hl] at this⟩, hw.2, by omega, ?_, ?_⟩)))))))
      · apply BitVec.eq_of_toNat_eq
        simp only [windowIndex, windowReg, windowLimb, Config.regBase, Config.regStride, Fin.ofNat, BitVec.toNat_ofNat]
        omega
      · rw [target_inWindow n idx hw.1, if_pos hw.2]
    · refine .inr (.inr (.inr (.inr (.inr (.inr (.inr (.inr ⟨by omega, by unfold Mapped; omega, ?_⟩)))))))
      by_cases hi : 0x400 ≤ idx.toNat
      · rw [target_inWindow n idx hi, if_neg fun hj => hw ⟨hi, hj⟩]
      · exact target_gap n idx (by omega) (by omega)

/-- A host read either changes no state or is refused and returns 0 (R63). -/
theorem hostRead_cases (idx : Index) (s : State) :
    (hostRead idx s).2 = s ∨ hostRead idx s = (0, refuse s) := by
  unfold hostRead
  split <;> simp
  unfold readWindow
  split <;> simp

/-- Everything a host write can do (R64): a refusal, or the effect on the place it names, with the phase that allows it. -/
theorem hostWrite_cases (idx : Index) (v : Word) (s : State) :
    hostWrite idx v s = refuse s
      ∨ (idx = 3 ∧ hostWrite idx v s = writeStatus v s)
      ∨ (idx = 4 ∧ v.getLsbD 1 = false ∧ hostWrite idx v s = { s with ie := v.getLsbD 0 })
      ∨ (s.phase = .idle ∧ idx = 4 ∧ v.getLsbD 1 = true ∧ hostWrite idx v s = resetBlock s)
      ∨ (s.phase = .idle ∧ idx = 2 ∧ hostWrite idx v s = accept v s)
      ∨ (s.phase = .idle ∧ idx = 5 ∧ hostWrite idx v s = writeRounds v s)
      ∨ (s.phase = .idle ∧ ∃ i j, j < s.limbs ∧ j < 128 ∧ idx = windowIndex i j
          ∧ hostWrite idx v s = writeLimb i j v s) := by
  rcases target_cases s.limbs idx with h | h | h | h | h | h | h | h | h
  · exact .inl (by rw [hostWrite, h.2])
  · exact .inl (by rw [hostWrite, h.2])
  · rcases hp : s.phase with _ | _ | _
    · exact .inr (.inr (.inr (.inr (.inl ⟨rfl, h.1, by simp only [hostWrite, h.2, whenIdle, hp]⟩))))
    · exact .inl (by simp only [hostWrite, h.2, whenIdle, hp])
    · exact .inl (by simp only [hostWrite, h.2, whenIdle, hp])
  · exact .inr (.inl ⟨h.1, by rw [hostWrite, h.2]⟩)
  · have hw : hostWrite idx v s = writeCtrl v s := by rw [hostWrite, h.2]
    rw [hw]
    rcases hb : v.getLsbD 1 with _ | _
    · exact .inr (.inr (.inl ⟨h.1, rfl, by rw [writeCtrl, hb]; rfl⟩))
    · rcases hp : s.phase with _ | _ | _ <;> simp only [writeCtrl, hb, hp, if_true]
      · simp [h.1]
      · simp
      · simp
  · rcases hp : s.phase with _ | _ | _
    · exact .inr (.inr (.inr (.inr (.inr (.inl ⟨rfl, h.1, by simp only [hostWrite, h.2, whenIdle, hp]⟩)))))
    · exact .inl (by simp only [hostWrite, h.2, whenIdle, hp])
    · exact .inl (by simp only [hostWrite, h.2, whenIdle, hp])
  · exact .inl (by rw [hostWrite, h.2])
  · obtain ⟨-, -, hj, hj', hidx, ht⟩ := h
    rcases hp : s.phase with _ | _ | _
    · exact .inr (.inr (.inr (.inr (.inr (.inr ⟨rfl, _, _, hj, hj', hidx, by simp [hostWrite, whenIdle, ht, hp]⟩)))))
    · exact .inl (by simp [hostWrite, whenIdle, ht, hp])
    · exact .inl (by simp [hostWrite, whenIdle, ht, hp])
  · exact .inl (by rw [hostWrite, h.2.2])

/-- Everything the first step of PTEST can do (R122): a trivial verdict, or, for an odd n >= 5, the latched factoring followed by a
verdict (no round to hold) or by the request. -/
theorem firstStep_cases (n : Nat) (s : State) :
    (∃ v, (n ≤ 3 ∨ n % 2 = 0) ∧ firstStep n s = complete v s)
      ∨ (5 ≤ n ∧ n % 2 = 1
          ∧ ((s.klat = 0 ∧ firstStep n s = complete true (latchTest n (factor (n - 1)).1 (factor (n - 1)).2 s))
            ∨ (s.klat ≠ 0 ∧ firstStep n s = awaitDraw (latchTest n (factor (n - 1)).1 (factor (n - 1)).2 s)))) := by
  unfold firstStep
  split
  · exact .inl ⟨true, by omega, rfl⟩
  · split
    · exact .inl ⟨false, by omega, rfl⟩
    · split
      · exact .inl ⟨true, by omega, rfl⟩
      · refine .inr ⟨by omega, by omega, ?_⟩
        by_cases hk : s.klat = 0
        · exact .inl ⟨hk, by rw [startRounds, if_pos hk]⟩
        · exact .inr ⟨hk, by rw [startRounds, if_neg hk]⟩

/-- Everything a command with a destination can do: an error completion of a named cause, or its result and a normal completion. -/
theorem exec_dest_cases (i : Instr) (rd : Reg) (s : State) (h : destReg i = some rd) :
    (∃ c, (c = .zeroModulus ∨ c = .noModularInverse) ∧ exec i s = .next (raiseError c s))
      ∨ (∃ v, exec i s = .next (writeResult rd v s)) := by
  cases i with
  | ptest => simp [destReg] at h
  | modinv d a m =>
    obtain rfl : d = rd := by simpa [destReg] using h
    simp only [exec, execModinv, finishInverse]
    split
    · exact .inl ⟨_, .inl rfl, rfl⟩
    · split
      · exact .inl ⟨_, .inr rfl, rfl⟩
      · exact .inr ⟨_, rfl⟩
  | modexp d a b m =>
    obtain rfl : d = rd := by simpa [destReg] using h
    simp only [exec, execModexp]
    split
    · exact .inl ⟨_, .inl rfl, rfl⟩
    · exact .inr ⟨_, rfl⟩
  | modred d a m =>
    obtain rfl : d = rd := by simpa [destReg] using h
    simp only [exec, execModred]
    split
    · exact .inl ⟨_, .inl rfl, rfl⟩
    · exact .inr ⟨_, rfl⟩
  | modmul d a b m =>
    obtain rfl : d = rd := by simpa [destReg] using h
    simp only [exec, execModmul]
    split
    · exact .inl ⟨_, .inl rfl, rfl⟩
    · exact .inr ⟨_, rfl⟩

/-- Everything a command can do (R21, R121): with a destination, an error completion or a result; for PTEST, a verdict, a verdict after
the factoring, or the request. -/
theorem exec_cases (i : Instr) (s t : State) (h : exec i s = .next t) :
    (∃ rd, destReg i = some rd
        ∧ ((∃ c, (c = .zeroModulus ∨ c = .noModularInverse) ∧ t = raiseError c s) ∨ ∃ v, t = writeResult rd v s))
      ∨ (∃ rs1, i = .ptest rs1 ∧ t = firstStep (readReg s rs1) s) := by
  cases hd : destReg i with
  | some rd =>
    refine .inl ⟨rd, rfl, ?_⟩
    rcases exec_dest_cases i rd s hd with ⟨c, hc, h'⟩ | ⟨v, h'⟩
    · exact .inl ⟨c, hc, by simpa [h'] using h.symm⟩
    · exact .inr ⟨v, by simpa [h'] using h.symm⟩
  | none =>
    cases i <;> simp [destReg] at hd
    exact .inr ⟨_, rfl, by simpa [exec, execPtest] using h.symm⟩

/-- Every command answers a next state. -/
theorem exec_next (i : Instr) (s : State) : ∃ t, exec i s = .next t := by
  cases hd : destReg i with
  | some rd =>
    rcases exec_dest_cases i rd s hd with ⟨c, -, h⟩ | ⟨v, h⟩
    · exact ⟨_, h⟩
    · exact ⟨_, h⟩
  | none =>
    cases i <;> simp [destReg] at hd
    exact ⟨_, rfl⟩

/-- The write-one-to-clear effect as one update (R37). -/
theorem writeStatus_eq (v : Word) (s : State) :
    writeStatus v s =
      { s with
        done := if v.getLsbD 1 then false else s.done, accerr := if v.getLsbD 5 then false else s.accerr } := by
  unfold writeStatus
  cases v.getLsbD 1 <;> cases v.getLsbD 5 <;> rfl

/-- Everything the response step can do (R127): the range error, a failing round, the last passing round, or another request. -/
theorem takeAnswer_cases (a : Nat) (s : State) :
    ((a < 2 ∨ a > s.ptN - 2) ∧ takeAnswer a s = raiseError .rngRange (countDraw s))
      ∨ ((2 ≤ a ∧ a ≤ s.ptN - 2) ∧
          ((roundPasses s.ptN s.ptR s.ptS a = false ∧ takeAnswer a s = complete false (countDraw s))
            ∨ (roundPasses s.ptN s.ptR s.ptS a = true ∧ s.ptI + 1 = s.klat
                ∧ takeAnswer a s = complete true (passRound (countDraw s)))
            ∨ (roundPasses s.ptN s.ptR s.ptS a = true ∧ s.ptI + 1 ≠ s.klat
                ∧ takeAnswer a s = awaitDraw (passRound (countDraw s))))) := by
  unfold takeAnswer
  by_cases h : a < 2 ∨ a > s.ptN - 2
  · exact .inl ⟨h, by rw [if_pos h]⟩
  · refine .inr ⟨by omega, ?_⟩
    rw [if_neg h]
    cases hp : roundPasses s.ptN s.ptR s.ptS a
    · exact .inl ⟨rfl, by rw [if_neg (by simp)]⟩
    · by_cases hk : s.ptI + 1 = s.klat
      · exact .inr (.inl ⟨rfl, hk, by rw [if_pos rfl]; exact if_pos hk⟩)
      · exact .inr (.inr ⟨rfl, hk, by rw [if_pos rfl]; exact if_neg hk⟩)

/-- Everything a step of an agent can do (R10): the two host transactions, the hard reset, a response that finds a request or
does not, and the sequencer outside EXEC, on an illegal word, or on a command. -/
theorem agentStep_cases (s t : State) (e : Event) (h : agentStep e s = .next t) :
    (∃ idx, e = .hostRead idx ∧ t = deliver (hostRead idx s).1 (hostRead idx s).2)
      ∨ (∃ idx v, e = .hostWrite idx v ∧ t = hostWrite idx v s)
      ∨ (e = .hardReset ∧ t = resetBlock s)
      ∨ (∃ a, e = .draw a ∧ ((s.phase = .rngWait ∧ t = takeAnswer a s) ∨ (s.phase ≠ .rngWait ∧ t = s)))
      ∨ (e = .sequencer
          ∧ ((s.phase ≠ .exec ∧ t = s)
            ∨ (s.phase = .exec
                ∧ ((∃ why, decode s.cmd = .error why ∧ t = raiseError .illegalCommand s)
                  ∨ ∃ i, decode s.cmd = .ok i ∧ exec i s = .next t)))) := by
  cases e with
  | hostRead idx => exact .inl ⟨_, rfl, by simpa [agentStep] using h.symm⟩
  | hostWrite idx v => exact .inr (.inl ⟨_, _, rfl, by simpa [agentStep] using h.symm⟩)
  | hardReset => exact .inr (.inr (.inl ⟨rfl, by simpa [agentStep] using h.symm⟩))
  | draw a =>
    refine .inr (.inr (.inr (.inl ⟨a, rfl, ?_⟩)))
    simp only [agentStep, respond] at h
    split at h <;> simp at h <;> simp_all
  | sequencer =>
    refine .inr (.inr (.inr (.inr ⟨rfl, ?_⟩)))
    simp only [agentStep, sequencerStep] at h
    split at h
    · rename_i hp
      simp only [executeCmd] at h
      refine .inr ⟨hp, ?_⟩
      split at h
      · rename_i i hd
        exact .inr ⟨i, hd, h⟩
      · rename_i why hd
        exact .inl ⟨why, hd, by simpa using h.symm⟩
    · simp at h
      simp_all
    · simp at h
      simp_all

/-- The machine's step is the step of the agent that moves next, on the state without that step in its schedule. -/
theorem step_eq (s : State) : step s = agentStep (nextEvent s) (popEvent s) := rfl

/-- A scheduled step is taken (R10). -/
theorem step_scheduled (s : State) (e : Event) (rest : List Event) (h : s.env.schedule = e :: rest) :
    step s = agentStep e { s with env := { s.env with schedule := rest } } := by
  simp [step, stepNext, nextEvent, popEvent, h]

/-- With nothing scheduled the sequencer moves (R257). -/
theorem step_unscheduled (s : State) (h : s.env.schedule = []) : step s = sequencerStep s := by
  have hp : popEvent s = s := by
    rcases s with ⟨⟩
    rename_i env
    rcases env with ⟨sch, rd⟩
    simp_all [popEvent]
  simp [step, stepNext, nextEvent, h, hp, agentStep]

/-- A run of any machine goes on from the state its first step answers. -/
theorem coreRun_succ (M : Host.Core) (s t : M.State) (k : Nat) (h : M.step s = .next t) :
    M.run (k + 1) s = M.run k t := by
  simp only [Host.Core.run, h]

/-- A run of k + 1 steps whose first step answers `t` is the run of k steps from `t`. -/
theorem run_succ (s t : State) (k : Nat) (h : step s = .next t) :
    Host.Core.run core (k + 1) s = Host.Core.run core k t :=
  coreRun_succ core s t k h

/-- A run of no steps stays where it is. -/
theorem run_zero (s : State) : Host.Core.run core 0 s = .next s := rfl

/-- A write to CMD (R64 item 4). -/
theorem hostWrite_cmd (v : Word) (s : State) : hostWrite 0x002 v s = whenIdle (accept v) s := by
  simp [hostWrite, target]

/-- A write to STATUS (R64 item 1). -/
theorem hostWrite_status (v : Word) (s : State) : hostWrite 0x003 v s = writeStatus v s := by
  simp [hostWrite, target]

/-- A write to CTRL (R64 item 2). -/
theorem hostWrite_ctrl (v : Word) (s : State) : hostWrite 0x004 v s = writeCtrl v s := by
  simp [hostWrite, target]

/-- A write to ROUNDS (R64 item 5). -/
theorem hostWrite_rounds (v : Word) (s : State) : hostWrite 0x005 v s = whenIdle (writeRounds v) s := by
  simp [hostWrite, target]

/-- A write to a limb of a register (R64 item 6). -/
theorem hostWrite_window (i : Reg) (j : Nat) (v : Word) (s : State) (hj : j < s.limbs) (hn : s.limbs ≤ 128) :
    hostWrite (windowIndex i j) v s = whenIdle (writeLimb i j v) s := by
  simp [hostWrite, target_windowIndex _ i j hj hn]

/-- A read of a limb of a register (R63 item 2). -/
theorem hostRead_window (i : Reg) (j : Nat) (s : State) (hj : j < s.limbs) (hn : s.limbs ≤ 128) :
    hostRead (windowIndex i j) s = readWindow i j s := by
  simp [hostRead, target_windowIndex _ i j hj hn]

/-- What is allowed while idle is done while idle (R64 item 3). -/
theorem whenIdle_idle (f : State → State) (s : State) (h : s.phase = .idle) : whenIdle f s = f s := by
  simp only [whenIdle, h]

/-- What is allowed while idle is refused while busy (R64 item 3). -/
theorem whenIdle_busy (f : State → State) (s : State) (h : s.phase ≠ .idle) : whenIdle f s = refuse s := by
  unfold whenIdle
  split <;> simp_all

end Sys2Proof.Machine
end

