-- ==== Sys2Proof/Tests/Slice0.lean ====
section
/-! SUPPORT. Tests of the model, their expected results from spec/95_test_vectors.md (named V-...) or worked out by hand from the
rules; and, for every statement with hypotheses, a concrete state and operands that meet them. -/

namespace Sys2Proof.Tests

open Sys2Proof.Machine Sys2Proof.Safety

-- The kernel evaluates most of these tests; one after the other, they need no thread each.
set_option Elab.async false

/-! ## Helpers -/

/-- The start state of the vectors: W = 64, right after reset, with x[1], x[2], x[3] loaded. -/
def loaded (x1 x2 x3 : Nat) : State := { State.resetWith 2 with x := #v[0, x1, x2, x3, 0, 0, 0, 0] }

/-- The same with `k` in ROUNDS and the word of a command just accepted. -/
def issued (k w : Word) (s : State) : State := accept w { s with rounds := k }

/-- A PTEST of `n` with `k` rounds that has taken its first step. -/
def tested (n : Nat) (k : Word) : State := firstStep n (issued k 0x00001001 (loaded n 0 0))

/-- The state with a schedule. -/
def scheduled (es : List Event) (s : State) : State := { s with env := { s.env with schedule := es } }

/-- The next state, if the outcome is one. -/
def after (o : Host.Outcome State Fault Refusal) : Option State :=
  match o with
  | .next t => some t
  | .fault _ => none
  | .refused _ => none

/-- A register and the STATUS word of the next state. -/
def seen (r : Reg) (o : Host.Outcome State Fault Refusal) : Option (Nat × Word) :=
  (after o).map fun t => (readReg t r, statusWord t)

/-- The STATUS word and RNDCNT of the next state. -/
def verdict (o : Host.Outcome State Fault Refusal) : Option (Word × Word) :=
  (after o).map fun t => (statusWord t, t.rndcnt)

/-! ## Well-formedness: one ill-formed term for each check -/

/-- The fields of `MODEXP x4, x1, x2, x3`, a well-formed term. -/
def goodFields : Fields := { op := 3, rd := 4, z1 := 0, rs1 := 1, z2 := 0, rs2 := 2, z3 := 0, rs3 := 3, z4 := 0 }

theorem test_wf_good : goodFields.wellFormed = true ∧ (Instr.modexp 4 1 2 3).wellFormed = true := by decide

theorem test_wf_op_zero : ({ goodFields with op := 0 } : Fields).wellFormed = false := by decide
theorem test_wf_op_six : ({ goodFields with op := 6 } : Fields).wellFormed = false := by decide
theorem test_wf_z1 : ({ goodFields with z1 := 1 } : Fields).wellFormed = false := by decide
theorem test_wf_z2 : ({ goodFields with z2 := 1 } : Fields).wellFormed = false := by decide
theorem test_wf_z3 : ({ goodFields with z3 := 1 } : Fields).wellFormed = false := by decide
theorem test_wf_z4 : ({ goodFields with z4 := 256 } : Fields).wellFormed = false := by decide

/-- PTEST with each of its unused fields set (R99; V-EN-15, V-EN-16, V-EN-17). -/
theorem test_wf_ptest_unused :
    ({ (Instr.ptest 1).fields with rd := 1 } : Fields).wellFormed = false
      ∧ ({ (Instr.ptest 1).fields with rs2 := 1 } : Fields).wellFormed = false
      ∧ ({ (Instr.ptest 1).fields with rs3 := 1 } : Fields).wellFormed = false := by decide

/-- MODINV with its unused field set (R99; V-EN-18). -/
theorem test_wf_modinv_unused : ({ (Instr.modinv 3 1 2).fields with rs2 := 1 } : Fields).wellFormed = false := by decide

/-- MODRED with its unused field set (R99; V-EN-19). -/
theorem test_wf_modred_unused : ({ (Instr.modred 3 1 2).fields with rs2 := 1 } : Fields).wellFormed = false := by decide

/-! ## Decoding: the words of spec/95, 2.3 -/

theorem test_decode_ptest :
    decode 0x00001001 = .ok (.ptest 1) ∧ decode 0x00007001 = .ok (.ptest 7) ∧ decode 0x00000001 = .ok (.ptest 0) := by
  decide

theorem test_decode_modinv : decode 0x00201302 = .ok (.modinv 3 1 2) := by decide

theorem test_decode_modexp :
    decode 0x00321403 = .ok (.modexp 4 1 2 3) ∧ decode 0x00354603 = .ok (.modexp 6 4 5 3) := by decide

theorem test_decode_modred :
    decode 0x00201304 = .ok (.modred 3 1 2) ∧ decode 0x00707004 = .ok (.modred 0 7 7) := by decide

theorem test_decode_modmul :
    decode 0x00321405 = .ok (.modmul 4 1 2 3) ∧ decode 0x00777705 = .ok (.modmul 7 7 7 7)
      ∧ decode 0x00213405 = .ok (.modmul 4 3 1 2) := by decide

/-- The same words, written by the encoder. -/
theorem test_encode :
    encode (.ptest 7) = 0x00007001 ∧ encode (.modinv 3 1 2) = 0x00201302 ∧ encode (.modexp 6 4 5 3) = 0x00354603
      ∧ encode (.modred 0 7 7) = 0x00707004 ∧ encode (.modmul 4 3 1 2) = 0x00213405 := by decide

/-- V-EN-12 to V-EN-14: no known operation code. -/
theorem test_decode_unknown_op :
    decode 0x00000000 = .error .unknownOp ∧ decode 0xFFFFFFFF = .error .unknownOp
      ∧ decode 0x00001006 = .error .unknownOp := by decide

/-- V-EN-15 to V-EN-19: a register field set that the command does not use. -/
theorem test_decode_unused_field :
    decode 0x00001101 = .error .mustBeZero ∧ decode 0x00011001 = .error .mustBeZero
      ∧ decode 0x00101001 = .error .mustBeZero ∧ decode 0x00211302 = .error .mustBeZero
      ∧ decode 0x00211304 = .error .mustBeZero := by decide

/-- V-EN-20 to V-EN-24: a reserved bit set. -/
theorem test_decode_reserved_bit :
    decode 0x00201B02 = .error .mustBeZero ∧ decode 0x00209302 = .error .mustBeZero
      ∧ decode 0x00281302 = .error .mustBeZero ∧ decode 0x00801304 = .error .mustBeZero
      ∧ decode 0x80321403 = .error .mustBeZero := by decide

/-- The pseudo-instructions are spellings of commands (R104). -/
theorem test_pseudo :
    Instr.modsqr 4 1 3 = .modmul 4 1 1 3 ∧ Instr.encrypt 4 1 2 3 = .modexp 4 1 2 3
      ∧ Instr.decrypt 6 4 5 3 = .modexp 6 4 5 3 ∧ Instr.isprime 1 = .ptest 1 := by decide

/-- The host's two views of a table word: the decoder's answer, and a step that runs it right after reset. -/
theorem test_table_word :
    decodeTableWord 32 0x00201304 = some (.modred 3 1 2)
      ∧ (after (step ((loaded 100 7 0).withFetchWord 32 0x00201304))).map (fun t => readReg t 3) = some 2 := by
  decide +kernel

/-! ## One step of each command -/

/-- V-MR-06, and V-MR-07 with a destination that keeps its value. -/
theorem test_modred_wide : seen 3 (exec (.modred 3 1 2) (loaded (2 ^ 64 - 1) (2 ^ 32) 0)) = some (4294967295, 0x00000002) := by
  decide +kernel
theorem test_modred_zero_modulus : seen 3 (exec (.modred 3 1 2) (loaded 5 0 9)) = some (9, 0x00000206) := by decide +kernel

/-- V-MM-03: the product is exact, not cut at W bits. -/
theorem test_modmul_exact_product :
    seen 4 (exec (.modmul 4 1 2 3) (loaded (2 ^ 64 - 1) (2 ^ 64 - 1) (2 ^ 64 - 2))) = some (1, 0x00000002) := by
  decide +kernel

/-- V-MM-07. -/
theorem test_modmul_value :
    seen 4 (exec (.modmul 4 1 2 3) (loaded 123456789 987654321 1000000007)) = some (259106859, 0x00000002) := by
  decide +kernel

/-- V-ME-16: the destination is the modulus register. -/
theorem test_modexp_over_modulus : seen 3 (exec (.modexp 3 1 2 3) (loaded 4 13 497)) = some (445, 0x00000002) := by
  decide +kernel

/-- V-ME-12: the largest exponent. -/
theorem test_modexp_largest_exponent :
    seen 4 (exec (.modexp 4 1 2 3) (loaded 3 (2 ^ 64 - 1) (2 ^ 64 - 59))) = some (17268082312041408519, 0x00000002) := by
  decide +kernel

/-- V-MI-12: e >= m is accepted. -/
theorem test_modinv_wide :
    seen 3 (exec (.modinv 3 1 2) (loaded (2 ^ 64 - 1) (2 ^ 64 - 3) 0)) = some (9223372036854775807, 0x00000002) := by
  decide +kernel

/-- V-MI-02 with V-ER-05: no inverse, and the destination keeps its value. -/
theorem test_modinv_not_coprime : seen 3 (exec (.modinv 3 1 2) (loaded 4 8 77)) = some (77, 0x00000306) := by
  decide +kernel

/-- V-PT-18: 65 with the witness 14 squares to 1 and fails. -/
theorem test_ptest_composite : verdict (agentStep (.draw 14) (tested 65 1)) = some (0x00000002, 1) := by decide +kernel

/-- V-PT-10, last round: 61 with the witness 59 squares to 60 and passes. -/
theorem test_ptest_prime : verdict (agentStep (.draw 59) (tested 61 1)) = some (0x0000000A, 1) := by decide +kernel

/-! ## The host port and the other agents -/

/-- V-RS-01 and V-RS-02: the reset values of the control registers and PARAM. -/
theorem test_reset_reads :
    ((List.range 7).map fun i => (hostRead (BitVec.ofNat 11 i) (State.resetWith 2)).1) =
        [0x4D525054, 0x00000802, 0, 0, 0, 0x00000080, 0]
      ∧ paramWord (State.resetWith 1) = 0x00000801 ∧ paramWord (State.resetWith 128) = 0x00000880 := by
  decide +kernel

/-- V-HP-01: two limb writes make a 64-bit value. -/
theorem test_window_write :
    readReg (hostWrite 0x401 0x01234567 (hostWrite 0x400 0xDEADBEEF (State.resetWith 2))) 0 = 0x01234567DEADBEEF := by
  decide +kernel

/-- V-HP-07: the last limb of x[0] when W is 4096. -/
theorem test_window_last_limb : readReg (hostWrite 0x47F 0x80000000 (State.resetWith 128)) 0 = 2 ^ 4095 := by
  decide +kernel

/-- V-HP-02, V-HP-03: a limb that is not there, and the acknowledgement of the refusal. -/
theorem test_refused_read :
    (hostRead 0x402 (State.resetWith 2)).1 = 0
      ∧ statusWord (hostRead 0x402 (State.resetWith 2)).2 = 0x00000020
      ∧ statusWord (hostWrite 0x003 0x20 (hostRead 0x402 (State.resetWith 2)).2) = 0 := by
  decide +kernel

/-- V-BY-03: a busy block does not show x[1]. -/
theorem test_busy_read :
    (hostRead 0x480 (tested 61 2)).1 = 0 ∧ statusWord (hostRead 0x480 (tested 61 2)).2 = 0x00000061 := by
  decide +kernel

/-- V-BY-08, V-BY-10: CTRL while a PTEST waits. -/
theorem test_busy_ctrl :
    hostWrite 0x004 0x2 (tested 61 2) = refuse (tested 61 2)
      ∧ (hostWrite 0x004 0x1 (tested 61 2)).ie = true ∧ statusWord (hostWrite 0x004 0x1 (tested 61 2)) = 0x00000041 := by
  decide +kernel

/-- V-BY-01, V-BY-02: acceptance, and the request that the sequencer's step places. -/
theorem test_acceptance :
    statusWord (hostWrite 0x002 0x00001001 (loaded 61 0 0)) = 0x00000001
      ∧ (after (step (hostWrite 0x002 0x00001001 (loaded 61 0 0)))).map request = some (some (2, 59)) := by
  decide +kernel

/-- V-ER-01: an illegal word wins over a zero modulus. -/
theorem test_illegal_first :
    (after (step (issued 128 0x00211304 (loaded 5 0 0)))).map statusWord = some 0x00000106 := by
  decide +kernel

/-- A state with every field away from its reset value is reset by both resets (R52). -/
theorem test_resets :
    (after (agentStep .hardReset (refuse (tested 61 2)))) = some (State.resetWith 2)
      ∧ hostWrite 0x004 0x2 (refuse (complete true (tested 61 2))) = State.resetWith 2 := by
  decide +kernel

/-! ## Witnesses: for each statement with hypotheses, a state and operands that meet them, one for each of its clauses -/

theorem test_meets_BothResetsGiveTheTableOfRuleFiftyTwo :
    (loaded 1 2 3).phase = .idle ∧ (0xFFFFFFFF : Word).getLsbD 1 = true := by decide +kernel

theorem test_meets_SoftResetIsRefusedWhileBusy :
    (issued 1 0x00001001 (loaded 61 0 0)).phase ≠ .idle ∧ (tested 61 1).phase ≠ .idle ∧ (2 : Word).getLsbD 1 = true := by
  decide +kernel

/-- A PTEST of 61 that waits is a state that meets the invariant, and it has a next one. -/
theorem test_meets_EveryStepKeepsTheInvariant :
    Safety.Inv (scheduled [.draw 2] (tested 61 2))
      ∧ step (scheduled [.draw 2] (tested 61 2)) = .next (takeAnswer 2 (tested 61 2)) := by
  unfold Safety.Inv WidthInv FlagInv TestInv
  exact ⟨by decide +kernel, rfl⟩

theorem test_meets_NoStepChangesTheOperandWidth : step (loaded 1 2 3) = .next (loaded 1 2 3) := rfl

theorem test_meets_DecodingAnEncodedCommandGivesItBack :
    (Instr.ptest 7).wellFormed = true ∧ (Instr.modinv 7 7 7).wellFormed = true ∧ (Instr.modexp 7 7 7 7).wellFormed = true
      ∧ (Instr.modred 7 7 7).wellFormed = true ∧ (Instr.modmul 7 7 7 7).wellFormed = true := by decide

theorem test_meets_ALegalWordIsTheEncodingOfItsCommand : decode 0x00777705 = .ok (.modmul 7 7 7 7) := by decide

theorem test_meets_OneStepIsTheScheduledAgentsStep :
    (scheduled [.draw 2] (tested 61 2)).env.schedule = [.draw 2]
      ∧ (loaded 1 2 3).env.schedule = [] ∧ (loaded 1 2 3).phase ≠ .exec
      ∧ (tested 61 2).env.schedule = [] ∧ (tested 61 2).phase ≠ .exec := by decide +kernel

theorem test_meets_AStepOfTheSequencerRunsTheDecodedCommand :
    (issued 1 0x00201304 (loaded 100 7 0)).phase = .exec
      ∧ decode (issued 1 0x00201304 (loaded 100 7 0)).cmd = .ok (.modred 3 1 2)
      ∧ (issued 1 0x00201304 (loaded 100 7 0)).env.schedule = []
      ∧ (scheduled [.sequencer] (issued 1 0x00201304 (loaded 100 7 0))).env.schedule = [.sequencer] := by decide +kernel

theorem test_meets_AnIssuedCommandIsTheOneThatRuns :
    (scheduled [scriptCommand (.ptest 1), .sequencer] (loaded 61 0 0)).phase = .idle
      ∧ (scheduled [scriptCommand (.ptest 1), .sequencer] (loaded 61 0 0)).env.schedule =
          [scriptCommand (.ptest 1), .sequencer] := by decide +kernel

theorem test_meets_AnIllegalWordEndsInIllegalCommand :
    (issued 1 0 (loaded 1 2 3)).phase = .exec ∧ decode (issued 1 0 (loaded 1 2 3)).cmd = .error .unknownOp
      ∧ decode (issued 1 0x00001101 (loaded 1 2 3)).cmd = .error .mustBeZero := by decide +kernel

theorem test_meets_AcceptanceLatchesAndClears : (complete true (loaded 1 2 3)).phase = .idle := by decide +kernel

/-- One step along each transition of PHASE that exists. -/
theorem test_meets_PhaseMovesOnlyAsListed :
    (after (step (loaded 1 2 3))).map State.phase = some .idle
      ∧ (after (step (scheduled [.hostWrite 0x002 0] (loaded 1 2 3)))).map State.phase = some .exec
      ∧ (after (step (issued 1 0 (loaded 1 2 3)))).map State.phase = some .idle
      ∧ (after (step (scheduled [.hardReset] (issued 1 0 (loaded 1 2 3))))).map State.phase = some .idle
      ∧ (after (step (scheduled [.draw 2] (issued 1 0 (loaded 1 2 3))))).map State.phase = some .exec
      ∧ (after (step (issued 1 0x00001001 (loaded 61 0 0)))).map State.phase = some .rngWait
      ∧ (after (step (scheduled [.draw 2] (tested 61 1)))).map State.phase = some .idle
      ∧ (after (step (scheduled [.hardReset] (tested 61 1)))).map State.phase = some .idle
      ∧ (after (step (scheduled [.draw 2] (tested 61 2)))).map State.phase = some .rngWait := by decide +kernel

/-- A PTEST of 3, of an even number, with no round to hold; and a command that is no PTEST. -/
theorem test_meets_OneSequencerStepCompletesEveryCommandWithoutDraws :
    (issued 1 0x00001001 (loaded 3 0 0)).phase = .exec ∧ readReg (issued 1 0x00001001 (loaded 3 0 0)) 1 ≤ 3
      ∧ readReg (issued 1 0x00001001 (loaded 4 0 0)) 1 % 2 = 0 ∧ (issued 0 0x00001001 (loaded 61 0 0)).klat = 0
      ∧ decode (issued 1 0x00001001 (loaded 3 0 0)).cmd = .ok (.ptest 1)
      ∧ decode (issued 1 0x00321403 (loaded 3 0 0)).cmd = .ok (.modexp 4 1 2 3)
      ∧ decode (issued 1 0 (loaded 3 0 0)).cmd = .error .unknownOp := by decide +kernel

theorem test_meets_ModredWritesTheRemainder :
    readReg (loaded 100 1 0) 2 ≠ 0 ∧ readReg (loaded 100 0 0) 2 = 0 := by decide +kernel

theorem test_meets_ModmulWritesTheRemainderOfTheExactProduct :
    readReg (loaded 3 4 1) 3 ≠ 0 ∧ readReg (loaded 3 4 0) 3 = 0 := by decide +kernel

theorem test_meets_ModexpWritesTheRemainderOfTheExactPower :
    readReg (loaded 0 0 1) 3 ≠ 0 ∧ readReg (loaded 0 0 0) 3 = 0 := by decide +kernel

theorem test_meets_ModinvWritesTheUniqueInverse :
    (1 ≤ readReg (loaded 65537 780 0) 2 ∧ Nat.gcd (readReg (loaded 65537 780 0) 1) (readReg (loaded 65537 780 0) 2) = 1)
      ∧ 1 ≤ readReg (loaded 0 1 0) 2 ∧ Nat.gcd (readReg (loaded 0 1 0) 1) (readReg (loaded 0 1 0) 2) = 1 := by
  decide +kernel

theorem test_meets_ModinvRaisesNoModularInverseExactlyWithoutCoprimality :
    1 ≤ readReg (loaded 4 8 0) 2 ∧ Nat.gcd (readReg (loaded 4 8 0) 1) (readReg (loaded 4 8 0) 2) ≠ 1
      ∧ exec (.modinv 3 1 2) (loaded 4 8 0) = .next (raiseError .noModularInverse (loaded 4 8 0))
      ∧ (raiseError .noModularInverse (loaded 4 8 0)).errcode = 3 := by
  exact ⟨by decide +kernel, by decide +kernel, by rfl, rfl⟩

/-- 10 and 3 have one residue modulo 7. -/
theorem test_meets_ModinvDependsOnTheResidueOnly :
    readReg (loaded 10 7 9) 2 = readReg (loaded 3 7 9) 2
      ∧ readReg (loaded 10 7 9) 1 % readReg (loaded 10 7 9) 2 = readReg (loaded 3 7 9) 1 % readReg (loaded 3 7 9) 2
      ∧ readReg (loaded 10 7 9) 3 = readReg (loaded 3 7 9) 3
      ∧ (after (exec (.modinv 3 1 2) (loaded 10 7 9))).isSome = true
      ∧ (after (exec (.modinv 3 1 2) (loaded 3 7 9))).isSome = true := by decide +kernel

theorem test_meets_ZeroModulusExactlyWhenTheModulusIsZero :
    modulusReg (.modinv 3 1 2) = some 2 ∧ modulusReg (.modred 3 1 2) = some 2 ∧ readReg (loaded 5 0 0) 2 = 0
      ∧ modulusReg (.modexp 4 1 2 3) = some 3 ∧ modulusReg (.modmul 4 1 2 3) = some 3 ∧ readReg (loaded 5 0 0) 3 = 0
      ∧ (loaded 5 0 0).errcode = 0
      ∧ exec (.modred 3 1 2) (loaded 5 0 0) = .next (raiseError .zeroModulus (loaded 5 0 0))
      ∧ (raiseError .zeroModulus (loaded 5 0 0)).errcode = 2 := by
  refine ⟨by decide, by decide, by decide +kernel, by decide, by decide, by decide +kernel, rfl, rfl, rfl⟩

theorem test_meets_ModulusOneGivesZero :
    modulusReg (.modinv 4 1 2) = some 2 ∧ destReg (.modinv 4 1 2) = some 4 ∧ readReg (loaded 0 1 1) 2 = 1
      ∧ modulusReg (.modexp 4 1 2 3) = some 3 ∧ destReg (.modexp 4 1 2 3) = some 4 ∧ readReg (loaded 0 1 1) 3 = 1
      ∧ destReg (.modred 4 1 2) = some 4 ∧ destReg (.modmul 4 1 2 3) = some 4 := by decide +kernel

theorem test_meets_EveryResultIsBelowTheModulus :
    modulusReg (.modred 3 1 2) = some 2 ∧ destReg (.modred 3 1 2) = some 3
      ∧ exec (.modred 3 1 2) (loaded 100 7 0) = .next (writeResult 3 2 (loaded 100 7 0))
      ∧ (writeResult 3 2 (loaded 100 7 0)).err = false := ⟨by decide, by decide, rfl, rfl⟩

/-- A success and an error. -/
theorem test_meets_ModularCommandsChangeOnlyTheirDestinationAndFlags :
    destReg (.modred 3 1 2) = some 3
      ∧ exec (.modred 3 1 2) (loaded 100 7 0) = .next (writeResult 3 2 (loaded 100 7 0))
      ∧ exec (.modred 3 1 2) (loaded 5 0 0) = .next (raiseError .zeroModulus (loaded 5 0 0))
      ∧ (raiseError .zeroModulus (loaded 5 0 0)).err = true := ⟨by decide, rfl, rfl, rfl⟩

theorem test_meets_PtestChangesNoGeneralRegister :
    exec (.ptest 1) (issued 2 0x00001001 (loaded 61 0 0)) = .next (tested 61 2) := rfl

theorem test_meets_ErrorCompletionsArePrecise :
    (loaded 5 0 0).err = false ∧ exec (.modred 3 1 2) (loaded 5 0 0) = .next (raiseError .zeroModulus (loaded 5 0 0))
      ∧ (tested 61 1).err = false ∧ (tested 61 1).phase = .rngWait
      ∧ agentStep (.draw 60) (tested 61 1) = .next (takeAnswer 60 (tested 61 1))
      ∧ (takeAnswer 60 (tested 61 1)).err = true := by
  refine ⟨rfl, rfl, by decide +kernel, by decide +kernel, by rfl, by decide +kernel⟩

/-- Each of the four ways. -/
theorem test_meets_OnlyTheseStepsChangeAGeneralRegister :
    (after (agentStep .hardReset (loaded 1 0 0))).map (readReg · 1) = some 0
      ∧ (after (agentStep (.hostWrite 0x004 2) (loaded 1 0 0))).map (readReg · 1) = some 0
      ∧ (after (agentStep (.hostWrite (windowIndex 1 1) 1) (loaded 1 0 0))).map (readReg · 1) = some (1 + 2 ^ 32)
      ∧ (after (agentStep .sequencer (issued 1 0x00201304 (loaded 100 7 0)))).map (readReg · 3) = some 2 := by
  decide +kernel

theorem test_meets_HostCannotDisturbARunningCommand :
    (tested 61 2).phase ≠ .idle ∧ isHostEvent (.hostWrite 0x480 7) = true
      ∧ agentStep (.hostWrite 0x480 7) (tested 61 2) = .next (refuse (tested 61 2)) :=
  ⟨by decide +kernel, rfl, by rfl⟩

theorem test_meets_BusyPortRevealsNoGeneralRegister :
    (tested 61 2).phase ≠ .idle ∧ isHostEvent (.hostRead 0x480) = true
      ∧ agentStep (.hostRead 0x480) (tested 61 2) = .next (deliver 0 (refuse (tested 61 2))) :=
  ⟨by decide +kernel, rfl, by rfl⟩

/-- x[7] is no source of `MODRED x3, x1, x2`. -/
theorem test_meets_WithOtherStateEqualTheOutcomeDependsOnSourceRegistersOnly :
    (∀ r ∈ sourceRegs (.modred 3 1 2),
        readReg { loaded 100 7 0 with x := #v[0, 100, 7, 0, 0, 0, 0, 5] } r = readReg (loaded 100 7 0) r)
      ∧ exec (.modred 3 1 2) (loaded 100 7 0) = .next (writeResult 3 2 (loaded 100 7 0))
      ∧ destReg (.modred 3 1 2) = some 3 ∧ (writeResult 3 2 (loaded 100 7 0)).err = false :=
  ⟨by decide +kernel, rfl, by decide, rfl⟩

theorem test_meets_TrivialNumbersAreDecidedWithoutDraws :
    readReg (loaded 2 0 0) 1 = 2 ∧ readReg (loaded 3 0 0) 1 = 3
      ∧ readReg (loaded 1 0 0) 1 ≠ 2 ∧ readReg (loaded 1 0 0) 1 < 2
      ∧ readReg (loaded 4 0 0) 1 ≠ 2 ∧ readReg (loaded 4 0 0) 1 % 2 = 0 := by decide +kernel

/-- The least and the greatest odd number of a 64-bit block, with and without rounds. -/
theorem test_meets_FirstStepFactorsAndPlacesTheRequest :
    (5 ≤ readReg (loaded 5 0 0) 1 ∧ readReg (loaded 5 0 0) 1 % 2 = 1
        ∧ readReg (loaded 5 0 0) 1 < 2 ^ (loaded 5 0 0).width)
      ∧ (5 ≤ readReg (loaded (2 ^ 64 - 1) 0 0) 1 ∧ readReg (loaded (2 ^ 64 - 1) 0 0) 1 % 2 = 1
        ∧ readReg (loaded (2 ^ 64 - 1) 0 0) 1 < 2 ^ (loaded (2 ^ 64 - 1) 0 0).width)
      ∧ (issued 1 0x00001001 (loaded 5 0 0)).klat ≠ 0 ∧ (loaded 5 0 0).klat = 0 := by decide +kernel

theorem test_meets_AnAnswerOutOfRangeRaisesRngRange :
    (tested 61 1).phase = .rngWait ∧ (1 : Nat) < 2 ∧ (60 : Nat) > (tested 61 1).ptN - 2 := by decide +kernel

/-- V-PT-12. -/
theorem test_meets_AFailingRoundEndsWithCompositeVerdict :
    (tested 91 1).phase = .rngWait ∧ 2 ≤ (tested 91 1).ptN - 2 ∧ (tested 91 1).rndcnt = (tested 91 1).ptI
      ∧ roundPasses (tested 91 1).ptN (tested 91 1).ptR (tested 91 1).ptS 2 = false := by decide +kernel

/-- V-PT-10: the two ends of the range 2 to 59; the last of one round, and the first of two. -/
theorem test_meets_APassingRoundAdvancesTheTest :
    (tested 61 1).phase = .rngWait ∧ 59 ≤ (tested 61 1).ptN - 2
      ∧ roundPasses (tested 61 1).ptN (tested 61 1).ptR (tested 61 1).ptS 59 = true
      ∧ roundPasses (tested 61 1).ptN (tested 61 1).ptR (tested 61 1).ptS 2 = true
      ∧ (tested 61 1).ptI + 1 = (tested 61 1).klat ∧ (tested 61 2).ptI + 1 ≠ (tested 61 2).klat := by decide +kernel

/-- The round of 65 with 2 (V-PT-19) uses all its squarings and fails; that of 17 with 3 (V-PT-15) passes on the last. -/
theorem test_meets_ARoundPassesExactlyOnItsClosedForm :
    roundPasses 65 1 6 2 = false ∧ roundPasses 17 1 4 3 = true ∧ (5 : Nat) ≤ 17 ∧ (1 : Nat) ≤ 4 := by decide +kernel

theorem test_meets_APrimePassesEveryRound :
    Nat.Prime 61 ∧ (5 : Nat) ≤ 61 ∧ (61 : Nat) - 1 = 15 * 2 ^ 2 ∧ (15 : Nat) % 2 = 1 ∧ (59 : Nat) ≤ 61 - 2 := by norm_num

theorem test_meets_CompositeVerdictsAreSoundAndPrimesPass :
    (primalityTest 91 1 fun _ => 2).1 = .composite ∧ Nat.Prime 61 ∧ ∀ i, 1 ≤ i → i ≤ 2 → (2 : Nat) ≤ 2 ∧ (2 : Nat) ≤ 61 - 2 :=
  ⟨by decide +kernel, by norm_num, fun _ _ _ => by norm_num⟩

/-- V-PT-14: two answers on offer for two rounds. -/
theorem test_meets_TheStepsOfPtestComputeTheTestFunction :
    let s := scheduled [scriptCommand (.ptest 1), .sequencer, .draw 9, .draw 2] { loaded 91 0 0 with rounds := 2 }
    s.phase = .idle
      ∧ s.env.schedule =
          scriptCommand (.ptest 1) :: .sequencer :: answers s.rounds.toNat (fun i => if i = 1 then 9 else 2) := by
  decide +kernel

theorem test_meets_ASilentRandomSourceHangsTheTest :
    (scheduled [.hostWrite 0x004 2, .sequencer, scriptPoll] (tested 61 2)).phase = .rngWait
      ∧ ∀ e ∈ (scheduled [.hostWrite 0x004 2, .sequencer, scriptPoll] (tested 61 2)).env.schedule, endsWaiting e = false := by
  decide +kernel

theorem test_meets_AnAnswerWithoutARequestDoesNothing :
    request (loaded 61 0 0) = none ∧ request (issued 1 0x00001001 (loaded 61 0 0)) = none := by decide +kernel

/-- An answer taken; and the count cleared by acceptance, by the soft reset and by the hard reset. -/
theorem test_meets_RndcntCountsTheAnswersTaken :
    (tested 61 2).phase = .rngWait ∧ agentStep (.draw 2) (tested 61 2) = .next (takeAnswer 2 (tested 61 2))
      ∧ (takeAnswer 2 (tested 61 1)).rndcnt = 1 ∧ (takeAnswer 2 (tested 61 1)).phase = .idle
      ∧ (hostWrite 0x002 0 (takeAnswer 2 (tested 61 1))).rndcnt = 0
      ∧ (hostWrite 0x004 2 (takeAnswer 2 (tested 61 1))).rndcnt = 0
      ∧ (resetBlock (takeAnswer 2 (tested 61 1))).rndcnt = 0 := by
  refine ⟨by decide +kernel, by rfl, by decide +kernel, by decide +kernel, by decide +kernel, by decide +kernel, by decide +kernel⟩

/-- The first and the last limb of a 4096-bit block and of a 64-bit block; an unmapped index, and a window index while busy. -/
theorem test_meets_HostReadsReturnTheListedWords :
    (loaded 1 2 3).limbs ≤ 128 ∧ (State.resetWith 128).limbs ≤ 128 ∧ 127 < (State.resetWith 128).limbs
      ∧ 1 < (loaded 1 2 3).limbs ∧ (loaded 1 2 3).phase = .idle
      ∧ RefusedRead (loaded 1 2 3) 0x007 ∧ RefusedRead (loaded 1 2 3) 0x402 ∧ RefusedRead (tested 61 2) 0x400 := by
  decide +kernel

theorem test_meets_HostWritesDoWhatIsListed :
    (State.resetWith 128).limbs ≤ 128 ∧ (0xFFFFFFFD : Word).getLsbD 1 = false ∧ (State.resetWith 128).phase = .idle
      ∧ 127 < (State.resetWith 128).limbs := by decide +kernel

theorem test_meets_WritingALimbLeavesTheOtherLimbs :
    (1 : Nat) < 2 ∧ (2 ^ 64 - 1 : Nat) < 2 ^ (32 * 2) ∧ (0 : Nat) ≠ 1 := by decide +kernel

/-- Each item of R66's list. -/
theorem test_meets_RefusedAccessesAreExactlyTheListedOnes :
    RefusedRead (loaded 1 2 3) 0x3FF ∧ RefusedRead (loaded 1 2 3) 0x7FF ∧ RefusedRead (tested 61 2) 0x400 := by
  decide +kernel

theorem test_meets_RefusedAccessesAreExactlyTheListedOnes_idle :
    RefusedWrite (loaded 1 2 3) 0x482 0 ∧ RefusedWrite (loaded 1 2 3) 0x000 5
      ∧ RefusedWrite (loaded 1 2 3) 0x001 5 ∧ RefusedWrite (loaded 1 2 3) 0x006 5 := by decide +kernel

theorem test_meets_RefusedAccessesAreExactlyTheListedOnes_busy :
    RefusedWrite (tested 61 2) 0x480 7 ∧ RefusedWrite (tested 61 2) 0x002 7 ∧ RefusedWrite (tested 61 2) 0x005 9
      ∧ RefusedWrite (tested 61 2) 0x004 3 := by decide +kernel

/-- Accesses that are not on it, at the edges of its items. -/
theorem test_meets_RefusedAccessesAreExactlyTheListedOnes_other :
    (¬ RefusedRead (loaded 1 2 3) 0x781 ∧ ¬ RefusedRead (tested 61 2) 0x006)
      ∧ ¬ RefusedWrite (loaded 1 2 3) 0x004 3 ∧ ¬ RefusedWrite (tested 61 2) 0x004 1
      ∧ ¬ RefusedWrite (tested 61 2) 0x003 0x22 := by decide +kernel

/-- ACCERR set by a refused read and by a refused write; cleared by the hard reset, by STATUS and by the soft reset. -/
theorem test_meets_AccerrIsStickyAndSetByRefusalsOnly :
    (loaded 1 2 3).accerr = false
      ∧ (after (agentStep (.hostRead 0x402) (loaded 1 2 3))).map State.accerr = some true
      ∧ (after (agentStep (.hostWrite 0x000 5) (loaded 1 2 3))).map State.accerr = some true
      ∧ (after (agentStep .hardReset (refuse (loaded 1 2 3)))).map State.accerr = some false
      ∧ (after (agentStep scriptClracc (refuse (loaded 1 2 3)))).map State.accerr = some false
      ∧ (after (agentStep scriptSrst (refuse (loaded 1 2 3)))).map State.accerr = some false := by decide +kernel

theorem test_meets_LoadingEveryLimbLoadsTheValue :
    (scheduled (scriptWr 2 1 (2 ^ 64 - 1)) (loaded 5 0 0)).phase = .idle ∧ (loaded 5 0 0).limbs ≤ 128
      ∧ readReg (loaded 5 0 0) 1 < 2 ^ (loaded 5 0 0).width ∧ (2 ^ 64 - 1 : Nat) < 2 ^ (loaded 5 0 0).width
      ∧ (scheduled (scriptWr 2 1 (2 ^ 64 - 1)) (loaded 5 0 0)).env.schedule = scriptWr 2 1 (2 ^ 64 - 1) ++ [] := by
  decide +kernel

theorem test_meets_ReadingEveryLimbReturnsTheValue :
    (scheduled (scriptRd 2 1) (loaded (2 ^ 64 - 1) 0 0)).phase = .idle ∧ (loaded (2 ^ 64 - 1) 0 0).limbs ≤ 128
      ∧ readReg (loaded (2 ^ 64 - 1) 0 0) 1 < 2 ^ (loaded (2 ^ 64 - 1) 0 0).width
      ∧ (scheduled (scriptRd 2 1) (loaded (2 ^ 64 - 1) 0 0)).env.schedule = scriptRd 2 1 ++ [] := by
  decide +kernel

/-- p = 5, q = 11, n = 55, lcm(4, 10) = 20, e = 3, d = 7, m = 54: 54^3 mod 55 = 54. -/
theorem test_meets_DecryptingAnEncryptedMessageGivesItBack :
    let s : State := { loaded 54 3 55 with x := #v[0, 54, 3, 55, 0, 7, 0, 0] }
    Nat.Prime 5 ∧ Nat.Prime 11 ∧ readReg s 3 = 5 * 11
      ∧ readReg s 5 * readReg s 2 % Nat.lcm (5 - 1) (11 - 1) = 1 % Nat.lcm (5 - 1) (11 - 1) ∧ readReg s 1 < 5 * 11
      ∧ (4 : Reg) ≠ 3 ∧ (4 : Reg) ≠ 5
      ∧ (after (exec (Instr.encrypt 4 1 2 3) s)).map (readReg · 4) = some 54
      ∧ exec (Instr.encrypt 4 1 2 3) s = .next (writeResult 4 (modExp 54 3 55) s)
      ∧ exec (Instr.decrypt 6 4 5 3) (writeResult 4 (modExp 54 3 55) s) =
          .next (writeResult 6 (modExp (modExp 54 3 55) 7 55) (writeResult 4 (modExp 54 3 55) s)) := by
  refine ⟨by norm_num, by norm_num, by decide +kernel, by decide +kernel, by decide +kernel, by decide, by decide,
    by decide +kernel, rfl, rfl⟩

end Sys2Proof.Tests
end

section
/-! PROOFS, 00_scope: the operand width (R6), the invariant at reset (R52), and which agent moves (R10). -/

namespace Sys2Proof.Machine

open Sys2Proof.Safety

/-! ## No operation changes the operand width -/

@[simp] theorem writeResult_limbs (rd : Reg) (v : Nat) (s : State) : (writeResult rd v s).limbs = s.limbs := rfl
@[simp] theorem writeLimb_limbs (i : Reg) (j : Nat) (v : Word) (s : State) : (writeLimb i j v s).limbs = s.limbs := rfl

@[simp] theorem writeStatus_limbs (v : Word) (s : State) : (writeStatus v s).limbs = s.limbs := by
  rw [writeStatus_eq]

@[simp] theorem hostRead_limbs (idx : Index) (s : State) : (hostRead idx s).2.limbs = s.limbs := by
  rcases hostRead_cases idx s with h | h <;> simp [h]

@[simp] theorem hostWrite_limbs (idx : Index) (v : Word) (s : State) : (hostWrite idx v s).limbs = s.limbs := by
  rcases hostWrite_cases idx v s with
    h | ⟨-, h⟩ | ⟨-, -, h⟩ | ⟨-, -, -, h⟩ | ⟨-, -, h⟩ | ⟨-, -, h⟩ | ⟨-, _, _, -, -, -, h⟩ <;> simp [h]

@[simp] theorem firstStep_limbs (n : Nat) (s : State) : (firstStep n s).limbs = s.limbs := by
  rcases firstStep_cases n s with ⟨_, -, h⟩ | ⟨-, -, ⟨-, h⟩ | ⟨-, h⟩⟩ <;> simp [h]

@[simp] theorem takeAnswer_limbs (a : Nat) (s : State) : (takeAnswer a s).limbs = s.limbs := by
  rcases takeAnswer_cases a s with ⟨-, h⟩ | ⟨-, ⟨-, h⟩ | ⟨-, -, h⟩ | ⟨-, -, h⟩⟩ <;> simp [h]

/-- The four modular commands end in `writeResult` or `raiseError`, PTEST in its first step; none writes the width. -/
theorem exec_limbs (i : Instr) (s t : State) (h : exec i s = .next t) : t.limbs = s.limbs := by
  rcases exec_cases i s t h with ⟨_, -, ⟨_, -, rfl⟩ | ⟨_, rfl⟩⟩ | ⟨_, -, rfl⟩
  · exact raiseError_limbs ..
  · exact writeResult_limbs ..
  · exact firstStep_limbs ..

theorem agentStep_limbs (e : Event) (s t : State) (h : agentStep e s = .next t) : t.limbs = s.limbs := by
  rcases agentStep_cases s t e h with ⟨idx, -, rfl⟩ | ⟨idx, v, -, rfl⟩ | ⟨-, rfl⟩ | ⟨a, -, hd⟩ | ⟨-, hs⟩
  · exact hostRead_limbs idx s
  · exact hostWrite_limbs idx v s
  · exact resetBlock_limbs s
  · rcases hd with ⟨-, rfl⟩ | ⟨-, rfl⟩
    · exact takeAnswer_limbs a s
    · rfl
  · rcases hs with ⟨-, rfl⟩ | ⟨-, ⟨_, -, rfl⟩ | ⟨i, -, hx⟩⟩
    · rfl
    · exact raiseError_limbs ..
    · exact exec_limbs i s t hx

/-! ## The reset state -/

/-- Every register of the reset state reads 0 (R23). -/
@[simp] theorem readReg_resetWith (n : Nat) (i : Reg) : readReg (State.resetWith n) i = 0 := by
  simp [readReg, State.resetWith]

theorem widthInv_resetWith (n : Nat) (h1 : 1 ≤ n) (h128 : n ≤ 128) : WidthInv (State.resetWith n) :=
  ⟨h1, h128, fun i => by rw [readReg_resetWith]; exact Nat.two_pow_pos _, Nat.two_pow_pos _, Nat.two_pow_pos _,
    Nat.zero_le _⟩

theorem flagInv_resetWith (n : Nat) : FlagInv (State.resetWith n) := by
  simp [FlagInv, State.resetWith]

theorem testInv_resetWith (n : Nat) : TestInv (State.resetWith n) := by
  simp [TestInv, State.resetWith]

/-- The invariant holds after reset for every legal number of limbs (R6, R52), not only for the open constant. -/
theorem inv_resetWith (n : Nat) (h1 : 1 ≤ n) (h128 : n ≤ 128) : Inv (State.resetWith n) :=
  ⟨widthInv_resetWith n h1 h128, flagInv_resetWith n, testInv_resetWith n⟩

/-- All that is known of the open operand width (R6): its lower bound. -/
theorem one_le_configLimbs : 1 ≤ Config.limbs := Nat.succ_pos _

/-- All that is known of the open operand width (R6): its upper bound. -/
theorem configLimbs_le : Config.limbs ≤ 128 := Config.topLimb.isLt

/-! ## The sequencer outside EXEC -/

/-- The sequencer has no step in IDLE and none in RNGWAIT (R46). -/
theorem sequencerStep_of_ne_exec (s : State) (h : s.phase ≠ .exec) : sequencerStep s = .next s := by
  unfold sequencerStep
  split
  · contradiction
  · rfl
  · rfl

end Sys2Proof.Machine

namespace Sys2Proof.Proofs

open Sys2Proof.Machine

/-- Settles O6: taking the step off the schedule leaves the width, and so does every agent's step. -/
theorem noStepChangesTheOperandWidth : Obligations.NoStepChangesTheOperandWidth := by
  intro s t h
  rw [step_eq] at h
  exact (agentStep_limbs _ _ t h).trans (popEvent_limbs s)

/-- Settles O4: the open width is a legal one, and the invariant holds after reset for every legal width. -/
theorem resetStateMeetsTheInvariant : Obligations.ResetStateMeetsTheInvariant :=
  inv_resetWith Config.limbs one_le_configLimbs configLimbs_le

/-- Settles O11: with nothing scheduled the sequencer moves, and outside EXEC it has no step. -/
theorem oneStepIsTheScheduledAgentsStep : Obligations.OneStepIsTheScheduledAgentsStep :=
  ⟨step_scheduled, fun s h hp => (step_unscheduled s h).trans (sequencerStep_of_ne_exec s hp)⟩

end Sys2Proof.Proofs
end

section
/-! PROOFS, 10_state: the limbs of a value (R22, R62). -/

namespace Sys2Proof.Machine

/-- Bit `i` of limb `k` is bit `32 * k + i` of the value (R62). -/
theorem getLsbD_limb (v k i : Nat) (hi : i < 32) : (limb v k).getLsbD i = v.testBit (32 * k + i) := by
  rw [limb, BitVec.getLsbD_ofNat, Nat.testBit_div_two_pow, Nat.add_comm]
  simp [hi]

/-- The value with limb `j` replaced, bit by bit: the bits below and above the limb are the old ones. -/
theorem testBit_setLimb (v j : Nat) (w : Word) (i : Nat) :
    (setLimb v j w).testBit i =
      if 32 * j ≤ i ∧ i < 32 * (j + 1) then w.getLsbD (i - 32 * j) else v.testBit i := by
  have hpow : 2 ^ (32 * (j + 1)) = 2 ^ (32 * j) * 2 ^ 32 := by rw [← pow_add, mul_add, mul_one]
  have hform : setLimb v j w = 2 ^ (32 * j) * (2 ^ 32 * (v / 2 ^ (32 * (j + 1))) + w.toNat) + v % 2 ^ (32 * j) := by
    rw [setLimb, Nat.mul_add (2 ^ (32 * j)), ← Nat.mul_assoc, ← hpow, Nat.mul_comm _ (2 ^ (32 * (j + 1))),
      Nat.mul_comm w.toNat]
  rw [hform, Nat.testBit_two_pow_mul_add _ (Nat.mod_lt _ (Nat.two_pow_pos _))]
  by_cases hlow : i < 32 * j
  · rw [if_pos hlow, Nat.testBit_mod_two_pow, if_neg (by omega)]
    simp [hlow]
  · rw [if_neg hlow, Nat.testBit_two_pow_mul_add (i := 32) _ w.isLt]
    by_cases hin : i - 32 * j < 32
    · rw [if_pos hin, if_pos (by omega), BitVec.testBit_toNat]
    · have hi : i - 32 * j - 32 + 32 * (j + 1) = i := by omega
      rw [if_neg hin, if_neg (by omega), Nat.testBit_div_two_pow, hi]

/-- A replaced limb reads as the word written. -/
theorem limb_setLimb_same (v j : Nat) (w : Word) : limb (setLimb v j w) j = w := by
  refine BitVec.eq_of_getLsbD_eq fun i hi => ?_
  rw [getLsbD_limb _ _ _ hi, testBit_setLimb, if_pos (by omega), Nat.add_sub_cancel_left]

/-- Replacing one limb leaves the others. -/
theorem limb_setLimb_ne (v j k : Nat) (w : Word) (h : k ≠ j) : limb (setLimb v j w) k = limb v k := by
  refine BitVec.eq_of_getLsbD_eq fun i hi => ?_
  rw [getLsbD_limb _ _ _ hi, getLsbD_limb _ _ _ hi, testBit_setLimb, if_neg (by omega)]

/-- Replacing a limb the value has keeps the value below its width (R22). -/
theorem setLimb_lt (v j n : Nat) (w : Word) (hj : j < n) (hv : v < 2 ^ (32 * n)) : setLimb v j w < 2 ^ (32 * n) := by
  refine Nat.lt_pow_two_of_testBit _ fun i hi => ?_
  rw [testBit_setLimb, if_neg (by omega)]
  exact Nat.testBit_lt_two_pow (hv.trans_le (Nat.pow_le_pow_right (by omega) hi))

end Sys2Proof.Machine

namespace Sys2Proof.Proofs

open Sys2Proof.Machine

/-- Settles O50, on the bits of the value. -/
theorem writingALimbLeavesTheOtherLimbs : Obligations.WritingALimbLeavesTheOtherLimbs :=
  fun v j n w hj hv => ⟨limb_setLimb_same v j w, fun k hk => limb_setLimb_ne v j k w hk, setLimb_lt v j n w hj hv⟩

end Sys2Proof.Proofs
end

section
/-! PROOFS, 10_state: every step keeps the invariant (R20, R31, R32, R35, R45, R47, R51, R125, R131). -/

namespace Sys2Proof.Machine

open Sys2Proof.Safety

/-! ## What the commands latch and write stays in range -/

/-- The command does the same to both states: the same error completion, the same result in its destination, below the modulus
(R181), or the first step of PTEST on the same number. -/
def SameOutcome (i : Instr) (s s' : State) : Prop :=
  (∃ c, exec i s = .next (raiseError c s) ∧ exec i s' = .next (raiseError c s'))
    ∨ (∃ rd m v, destReg i = some rd ∧ v < readReg s m
        ∧ exec i s = .next (writeResult rd v s) ∧ exec i s' = .next (writeResult rd v s'))
    ∨ (∃ rs1, i = .ptest rs1 ∧ exec i s = .next (firstStep (readReg s rs1) s)
        ∧ exec i s' = .next (firstStep (readReg s rs1) s'))

/-- A command that tests its modulus and then writes one result does the same wherever it finds the same modulus and result. -/
theorem sameOutcome_of_modulus (i : Instr) (rd m : Reg) (v : Nat) (s s' : State) (hd : destReg i = some rd)
    (hv : readReg s m ≠ 0 → v < readReg s m)
    (hs : exec i s = if readReg s m = 0 then .next (raiseError .zeroModulus s) else .next (writeResult rd v s))
    (hs' : exec i s' = if readReg s m = 0 then .next (raiseError .zeroModulus s') else .next (writeResult rd v s')) :
    SameOutcome i s s' := by
  by_cases hm : readReg s m = 0
  · exact .inl ⟨_, by rw [hs, if_pos hm], by rw [hs', if_pos hm]⟩
  · exact .inr (.inl ⟨rd, m, v, hd, hv hm, by rw [hs, if_neg hm], by rw [hs', if_neg hm]⟩)

/-- MODINV once its modulus is not 0: it does the same wherever `ExtEuclid` gets the same operands (R152). -/
theorem sameOutcome_modinv (rd rs1 rs3 : Reg) (s s' : State) (h1 : readReg s' rs1 = readReg s rs1)
    (h3 : readReg s' rs3 = readReg s rs3) : SameOutcome (.modinv rd rs1 rs3) s s' := by
  have hs : ∀ u : State, readReg u rs1 = readReg s rs1 → readReg u rs3 = readReg s rs3 →
      exec (.modinv rd rs1 rs3) u = if readReg s rs3 = 0 then .next (raiseError .zeroModulus u)
        else .next (finishInverse rd (extEuclid (readReg s rs1) (readReg s rs3)) u) := fun u hu1 hu3 => by
    simp only [exec, execModinv, hu1, hu3]
  by_cases hm : readReg s rs3 = 0
  · exact .inl ⟨_, by rw [hs s rfl rfl, if_pos hm], by rw [hs s' h1 h3, if_pos hm]⟩
  · by_cases hg : (extEuclid (readReg s rs1) (readReg s rs3)).1 ≠ 1
    · exact .inl ⟨_, by rw [hs s rfl rfl, if_neg hm, finishInverse, if_pos hg],
        by rw [hs s' h1 h3, if_neg hm, finishInverse, if_pos hg]⟩
    · have hlt := (extEuclid_spec (readReg s rs1) (readReg s rs3) (Nat.pos_of_ne_zero hm)).2.1
      exact .inr (.inl ⟨rd, rs3, _, rfl, hlt, by rw [hs s rfl rfl, if_neg hm, finishInverse, if_neg hg],
        by rw [hs s' h1 h3, if_neg hm, finishInverse, if_neg hg]⟩)

/-- What a command does is decided by the values of its source registers (R21). -/
theorem exec_sameOutcome (i : Instr) (s s' : State) (h : ∀ r ∈ sourceRegs i, readReg s' r = readReg s r) :
    SameOutcome i s s' := by
  cases i with
  | ptest a =>
    have ha : readReg s' a = readReg s a := h a (by simp [sourceRegs])
    exact .inr (.inr ⟨a, rfl, rfl, by rw [exec, execPtest, ha]⟩)
  | modinv d a m =>
    exact sameOutcome_modinv d a m s s' (h a (by simp [sourceRegs])) (h m (by simp [sourceRegs]))
  | modexp d a b m =>
    simp only [sourceRegs, List.mem_cons, List.not_mem_nil, or_false, forall_eq_or_imp, forall_eq] at h
    obtain ⟨ha, hb, hm⟩ := h
    exact sameOutcome_of_modulus _ d m _ s s' rfl
      (fun h0 => by rw [modExp_eq]; exact Nat.mod_lt _ (Nat.pos_of_ne_zero h0)) rfl
      (by rw [exec, execModexp, ha, hb, hm])
  | modred d a m =>
    simp only [sourceRegs, List.mem_cons, List.not_mem_nil, or_false, forall_eq_or_imp, forall_eq] at h
    obtain ⟨ha, hm⟩ := h
    exact sameOutcome_of_modulus _ d m _ s s' rfl (fun h0 => Nat.mod_lt _ (Nat.pos_of_ne_zero h0)) rfl
      (by rw [exec, execModred, ha, hm]; rfl)
  | modmul d a b m =>
    simp only [sourceRegs, List.mem_cons, List.not_mem_nil, or_false, forall_eq_or_imp, forall_eq] at h
    obtain ⟨ha, hb, hm⟩ := h
    exact sameOutcome_of_modulus _ d m _ s s' rfl (fun h0 => Nat.mod_lt _ (Nat.pos_of_ne_zero h0)) rfl
      (by rw [exec, execModmul, ha, hb, hm]; rfl)

/-- The factoring of n - 1 for an odd n < 2^W with n >= 5 (R125): r is below 2^W, and e is from 1 to W - 1. -/
theorem factor_bounds (n W : Nat) (h5 : 5 ≤ n) (hodd : n % 2 = 1) (hn : n < 2 ^ W) :
    (factor (n - 1)).1 < 2 ^ W ∧ 1 ≤ (factor (n - 1)).2 ∧ (factor (n - 1)).2 ≤ W - 1 := by
  obtain ⟨hr, hfac⟩ := factor_spec (n - 1) (by omega)
  have hrpos : 0 < (factor (n - 1)).1 := by omega
  have hr_le : (factor (n - 1)).1 ≤ n - 1 := by
    conv_rhs => rw [hfac]
    exact Nat.le_mul_of_pos_right _ (Nat.two_pow_pos _)
  have hpow_le : 2 ^ (factor (n - 1)).2 ≤ n - 1 := by
    conv_rhs => rw [hfac]
    exact Nat.le_mul_of_pos_left _ hrpos
  have he : (factor (n - 1)).2 < W := (Nat.pow_lt_pow_iff_right (by omega)).1 (by omega : 2 ^ (factor (n - 1)).2 < 2 ^ W)
  refine ⟨by omega, Nat.one_le_iff_ne_zero.2 fun h0 => ?_, by omega⟩
  rw [h0, pow_zero, mul_one] at hfac
  omega

/-! ## The invariant, operation by operation -/

theorem widthInv_writeReg (i : Reg) (v : Nat) (s : State) (h : WidthInv s) (hv : v < 2 ^ s.width) :
    WidthInv (writeReg i v s) := by
  obtain ⟨h1, h128, hx, hpt⟩ := h
  refine ⟨h1, h128, fun j => ?_, hpt⟩
  by_cases hj : j = i
  · rw [hj, readReg_writeReg_same]
    exact hv
  · rw [readReg_writeReg_ne s i j v hj]
    exact hx j

theorem widthInv_latchTest (n : Nat) (s : State) (h : WidthInv s) (h5 : 5 ≤ n) (hodd : n % 2 = 1)
    (hn : n < 2 ^ s.width) : WidthInv (latchTest n (factor (n - 1)).1 (factor (n - 1)).2 s) := by
  obtain ⟨h1, h128, hx, -⟩ := h
  obtain ⟨hr, -, he⟩ := factor_bounds n s.width h5 hodd hn
  exact ⟨h1, h128, hx, hn, hr, he⟩

/-- In IDLE the hidden registers of the sequencer are not read (R47), so nothing is asked of them. -/
theorem testInv_of_idle (s : State) (h : s.phase = .idle) : TestInv s := by
  simp [TestInv, h]

theorem inv_complete (v : Bool) (s : State) (h : WidthInv s) : Inv (complete v s) :=
  ⟨h, by simp [FlagInv], testInv_of_idle _ rfl⟩

theorem inv_raiseError (c : Cause) (s : State) (h : WidthInv s) : Inv (raiseError c s) :=
  ⟨h, by cases c <;> simp [FlagInv, causeCode], testInv_of_idle _ rfl⟩

theorem inv_accept (w : Word) (s : State) (h : WidthInv s) : Inv (accept w s) :=
  ⟨h, by simp [FlagInv], by simp [TestInv]⟩

theorem inv_resetBlock (s : State) (h : WidthInv s) : Inv (resetBlock s) :=
  inv_resetWith s.limbs h.1 h.2.1

theorem inv_writeResult (rd : Reg) (v : Nat) (s : State) (h : WidthInv s) (hv : v < 2 ^ s.width) :
    Inv (writeResult rd v s) :=
  inv_complete false _ (widthInv_writeReg rd v s h hv)

theorem inv_writeLimb (i : Reg) (j : Nat) (v : Word) (s : State) (h : Inv s) (hj : j < s.limbs) :
    Inv (writeLimb i j v s) := by
  obtain ⟨hw, hrest⟩ := h
  exact ⟨widthInv_writeReg i _ s hw (setLimb_lt _ j s.limbs v hj (hw.2.2.1 i)), hrest⟩

theorem inv_writeStatus (v : Word) (s : State) (h : Inv s) : Inv (writeStatus v s) := by
  obtain ⟨hw, ⟨herr, hcode, hprime, hbusy⟩, ht⟩ := h
  rw [writeStatus_eq]
  refine ⟨hw, ⟨herr, hcode, hprime, fun hp => ?_⟩, ht⟩
  obtain ⟨hdone, hflags⟩ := hbusy hp
  exact ⟨by simp [hdone], hflags⟩

theorem inv_hostRead (idx : Index) (s : State) (h : Inv s) : Inv (hostRead idx s).2 := by
  rcases hostRead_cases idx s with hr | hr <;> rw [hr] <;> exact h

theorem inv_hostWrite (idx : Index) (v : Word) (s : State) (h : Inv s) : Inv (hostWrite idx v s) := by
  rcases hostWrite_cases idx v s with
    hr | ⟨-, hr⟩ | ⟨-, -, hr⟩ | ⟨-, -, -, hr⟩ | ⟨-, -, hr⟩ | ⟨hp, -, hr⟩ | ⟨-, i, j, hj, -, -, hr⟩ <;> rw [hr]
  · exact h
  · exact inv_writeStatus v s h
  · exact h
  · exact inv_resetBlock s h.1
  · exact inv_accept v s h.1
  · exact ⟨h.1, h.2.1, testInv_of_idle _ hp⟩
  · exact inv_writeLimb i j v s h hj

/-- The request placed by the first step meets what is asked of a waiting PTEST: no round has passed, none is counted (R125). -/
theorem inv_awaitDraw_latchTest (n : Nat) (s : State) (h : Inv s) (hp : s.phase = .exec) (h5 : 5 ≤ n)
    (hodd : n % 2 = 1) (hn : n < 2 ^ s.width) (hk : s.klat ≠ 0) :
    Inv (awaitDraw (latchTest n (factor (n - 1)).1 (factor (n - 1)).2 s)) := by
  obtain ⟨hw, ⟨herr, hcode, hprime, hbusy⟩, hexec, -⟩ := h
  obtain ⟨hr, hfac⟩ := factor_spec (n - 1) (by omega)
  obtain ⟨-, he, -⟩ := factor_bounds n s.width h5 hodd hn
  have hkpos : 0 < s.klat.toNat := Nat.pos_of_ne_zero fun h0 => hk (BitVec.eq_of_toNat_eq h0)
  refine ⟨widthInv_latchTest n s hw h5 hodd hn, ⟨herr, hcode, hprime, fun _ => hbusy (by simp [hp])⟩, by simp, fun _ => ?_⟩
  exact ⟨h5, hodd, hfac, hr, he, hkpos, hexec hp⟩

theorem inv_firstStep (n : Nat) (s : State) (h : Inv s) (hp : s.phase = .exec) (hn : n < 2 ^ s.width) :
    Inv (firstStep n s) := by
  rcases firstStep_cases n s with ⟨v, -, hs⟩ | ⟨h5, hodd, ⟨-, hs⟩ | ⟨hk, hs⟩⟩ <;> rw [hs]
  · exact inv_complete v s h.1
  · exact inv_complete true _ (widthInv_latchTest n s h.1 h5 hodd hn)
  · exact inv_awaitDraw_latchTest n s h hp h5 hodd hn hk

/-- The next request: one round more has passed and one answer more is counted, and a round is left (R131). PT_I does not wrap
around, since it stays below KLAT. -/
theorem inv_awaitDraw_passRound (s : State) (h : Inv s) (hp : s.phase = .rngWait) (hk : s.ptI + 1 ≠ s.klat) :
    Inv (awaitDraw (passRound (countDraw s))) := by
  obtain ⟨hw, ⟨herr, hcode, hprime, hbusy⟩, -, hwait⟩ := h
  obtain ⟨h5, hodd, hfac, hr, he, hlt, hcount⟩ := hwait hp
  have hround : (s.ptI + 1).toNat < s.klat.toNat := by bv_omega
  refine ⟨hw, ⟨herr, hcode, hprime, fun _ => hbusy (by simp [hp])⟩, by simp, fun _ => ?_⟩
  exact ⟨h5, hodd, hfac, hr, he, hround, by simp [hcount]⟩

theorem inv_takeAnswer (a : Nat) (s : State) (h : Inv s) (hp : s.phase = .rngWait) : Inv (takeAnswer a s) := by
  rcases takeAnswer_cases a s with ⟨-, hs⟩ | ⟨-, ⟨-, hs⟩ | ⟨-, -, hs⟩ | ⟨-, hk, hs⟩⟩ <;> rw [hs]
  · exact inv_raiseError _ _ h.1
  · exact inv_complete _ _ h.1
  · exact inv_complete _ _ h.1
  · exact inv_awaitDraw_passRound s h hp hk

theorem inv_exec (i : Instr) (s t : State) (h : Inv s) (hp : s.phase = .exec) (hx : exec i s = .next t) : Inv t := by
  obtain ⟨-, -, hreg, -⟩ := h.1
  rcases exec_sameOutcome i s s fun _ _ => rfl with ⟨c, he, -⟩ | ⟨rd, m, v, -, hv, he, -⟩ | ⟨rs1, -, he, -⟩ <;>
    obtain rfl : _ = t := by simpa [he] using hx
  · exact inv_raiseError c s h.1
  · exact inv_writeResult rd v s h.1 (hv.trans (hreg m))
  · exact inv_firstStep _ s h hp (hreg rs1)

theorem inv_agentStep (e : Event) (s t : State) (h : Inv s) (ha : agentStep e s = .next t) : Inv t := by
  rcases agentStep_cases s t e ha with ⟨idx, -, rfl⟩ | ⟨idx, v, -, rfl⟩ | ⟨-, rfl⟩ | ⟨a, -, hd⟩ | ⟨-, hs⟩
  · exact inv_hostRead idx s h
  · exact inv_hostWrite idx v s h
  · exact inv_resetBlock s h.1
  · rcases hd with ⟨hp, rfl⟩ | ⟨-, rfl⟩
    · exact inv_takeAnswer a s h hp
    · exact h
  · rcases hs with ⟨-, rfl⟩ | ⟨hp, ⟨_, -, rfl⟩ | ⟨i, -, hx⟩⟩
    · exact h
    · exact inv_raiseError _ s h.1
    · exact inv_exec i s t h hp hx

end Sys2Proof.Machine

namespace Sys2Proof.Proofs

open Sys2Proof.Machine Sys2Proof.Safety

/-- Settles O5: the schedule is no part of the invariant, and every agent's step keeps it. -/
theorem everyStepKeepsTheInvariant : Obligations.EveryStepKeepsTheInvariant := by
  intro s t h hstep
  rw [step_eq] at hstep
  exact inv_agentStep (nextEvent s) (popEvent s) t h hstep

end Sys2Proof.Proofs
end

section
/-! PROOFS, 10_state: frames. What the commands and the response step leave unchanged (R21, R121, R204), and what changes a
general register (R68), RNDCNT (R40) and ACCERR (R33). -/

namespace Sys2Proof.Machine

open Sys2Proof.Safety

/-! ## The commands -/

/-- The first step of PTEST writes PHASE, the flags and the hidden registers of the test, and nothing else (R121). -/
theorem firstStep_frame (n : Nat) (s : State) :
    firstStep n s =
      { s with
        phase := (firstStep n s).phase, done := (firstStep n s).done, err := (firstStep n s).err,
        errcode := (firstStep n s).errcode, prime := (firstStep n s).prime, ptN := (firstStep n s).ptN,
        ptR := (firstStep n s).ptR, ptS := (firstStep n s).ptS, ptI := (firstStep n s).ptI } := by
  rcases firstStep_cases n s with ⟨v, -, h⟩ | ⟨-, -, ⟨-, h⟩ | ⟨-, h⟩⟩ <;> rw [h] <;> rfl

/-- The first step of PTEST reads no general register besides the number it was given. -/
theorem firstStep_withRegisters (n : Nat) (y : Vector Nat 8) (s : State) :
    firstStep n { s with x := y } = { firstStep n s with x := y } := by
  unfold firstStep startRounds
  by_cases h2 : n = 2
  · simp only [if_pos h2]; rfl
  · by_cases he : n < 2 ∨ n % 2 = 0
    · simp only [if_neg h2, if_pos he]; rfl
    · by_cases h3 : n = 3
      · simp only [if_neg h2, if_neg he, if_pos h3]; rfl
      · by_cases hk : s.klat = 0
        · simp only [if_neg h2, if_neg he, if_neg h3, if_pos hk]; rfl
        · simp only [if_neg h2, if_neg he, if_neg h3, if_neg hk]; rfl

/-- A response step writes RNDCNT, PHASE, the flags and PT_I, and nothing else (R127). -/
theorem takeAnswer_frame (a : Nat) (s : State) :
    takeAnswer a s =
      { s with
        rndcnt := s.rndcnt + 1, phase := (takeAnswer a s).phase, done := (takeAnswer a s).done,
        err := (takeAnswer a s).err, errcode := (takeAnswer a s).errcode, prime := (takeAnswer a s).prime,
        ptI := (takeAnswer a s).ptI } := by
  rcases takeAnswer_cases a s with ⟨-, h⟩ | ⟨-, ⟨-, h⟩ | ⟨-, -, h⟩ | ⟨-, -, h⟩⟩ <;> rw [h] <;> rfl

@[simp] theorem firstStep_x (n : Nat) (s : State) : (firstStep n s).x = s.x := by rw [firstStep_frame]
@[simp] theorem takeAnswer_accerr (a : Nat) (s : State) : (takeAnswer a s).accerr = s.accerr := by rw [takeAnswer_frame]
@[simp] theorem takeAnswer_rndcnt (a : Nat) (s : State) : (takeAnswer a s).rndcnt = s.rndcnt + 1 := by
  rw [takeAnswer_frame]
@[simp] theorem takeAnswer_x (a : Nat) (s : State) : (takeAnswer a s).x = s.x := by rw [takeAnswer_frame]

/-- A command writes its destination, PHASE, the flags and the hidden registers of the test, and nothing else (R21, R121). -/
theorem exec_frame (i : Instr) (s t : State) (h : exec i s = .next t) :
    t = { s with
      x := t.x, phase := t.phase, done := t.done, err := t.err, errcode := t.errcode, prime := t.prime, ptN := t.ptN,
      ptR := t.ptR, ptS := t.ptS, ptI := t.ptI } := by
  rcases exec_cases i s t h with ⟨_, -, ⟨_, -, rfl⟩ | ⟨_, rfl⟩⟩ | ⟨rs1, -, rfl⟩
  · rfl
  · rfl
  · rw [firstStep_x]
    exact firstStep_frame _ s

theorem exec_accerr (i : Instr) (s t : State) (h : exec i s = .next t) : t.accerr = s.accerr := by
  rw [exec_frame i s t h]

theorem exec_rndcnt (i : Instr) (s t : State) (h : exec i s = .next t) : t.rndcnt = s.rndcnt := by
  rw [exec_frame i s t h]

/-! ## The general registers -/

/-- A command changes no general register but its destination. -/
theorem destReg_of_exec_changes (i : Instr) (s t : State) (q : Reg) (h : exec i s = .next t)
    (hq : readReg t q ≠ readReg s q) : destReg i = some q := by
  rcases exec_cases i s t h with ⟨rd, hd, ⟨c, -, rfl⟩ | ⟨v, rfl⟩⟩ | ⟨rs1, -, rfl⟩
  · exact absurd (readReg_raiseError s q c) hq
  · by_cases hrd : q = rd
    · rw [hd, hrd]
    · exact absurd (readReg_writeResult_ne rd q v s hrd) hq
  · exact absurd (readReg_congr s _ (firstStep_x _ s) q) hq

/-- A host write changes a general register only on an idle block: by the soft reset, or at one of the register's limbs (R64). -/
theorem hostWrite_changes_reg (idx : Index) (v : Word) (s : State) (q : Reg)
    (hq : readReg (hostWrite idx v s) q ≠ readReg s q) :
    s.phase = .idle ∧ ((idx = 4 ∧ v.getLsbD 1 = true) ∨ ∃ j, j < s.limbs ∧ j < 128 ∧ idx = windowIndex q j) := by
  rcases hostWrite_cases idx v s with
    h | ⟨-, h⟩ | ⟨-, -, h⟩ | ⟨hp, hidx, hv, -⟩ | ⟨-, -, h⟩ | ⟨-, -, h⟩ | ⟨hp, i, j, hj, hj', hidx, h⟩
  · exact absurd (by rw [h, readReg_refuse]) hq
  · exact absurd (by rw [h, writeStatus_eq]; rfl) hq
  · exact absurd (by rw [h]; rfl) hq
  · exact ⟨hp, .inl ⟨hidx, hv⟩⟩
  · exact absurd (by rw [h, readReg_accept]) hq
  · exact absurd (by rw [h, readReg_writeRounds]) hq
  · by_cases hi : q = i
    · subst hi
      exact ⟨hp, .inr ⟨j, hj, hj', hidx⟩⟩
    · exact absurd (by rw [h, writeLimb, readReg_writeReg_ne s i q _ hi]) hq

/-! ## RNDCNT -/

theorem hostRead_rndcnt (idx : Index) (s : State) : (hostRead idx s).2.rndcnt = s.rndcnt := by
  rcases hostRead_cases idx s with h | h <;> rw [h]
  rfl

/-- A host write leaves RNDCNT, or clears it on an idle block, by acceptance or the soft reset (R40). -/
theorem hostWrite_rndcnt (idx : Index) (v : Word) (s : State) :
    (hostWrite idx v s).rndcnt = s.rndcnt ∨ (s.phase = .idle ∧ (hostWrite idx v s).rndcnt = 0) := by
  rcases hostWrite_cases idx v s with
    h | ⟨-, h⟩ | ⟨-, -, h⟩ | ⟨hp, -, -, h⟩ | ⟨hp, -, h⟩ | ⟨-, -, h⟩ | ⟨-, i, j, -, -, -, h⟩ <;> rw [h]
  · exact .inl rfl
  · exact .inl (by rw [writeStatus_eq])
  · exact .inl rfl
  · exact .inr ⟨hp, rfl⟩
  · exact .inr ⟨hp, rfl⟩
  · exact .inl rfl
  · exact .inl rfl

/-! ## ACCERR -/

/-- A host read that sets ACCERR is one that R66 lists. -/
theorem refusedRead_of_accerr (idx : Index) (s : State) (h0 : s.accerr = false)
    (h1 : (hostRead idx s).2.accerr = true) : RefusedRead s idx := by
  rcases target_cases s.limbs idx with h | h | h | h | h | h | h | ⟨hw, -, -, -, -, h⟩ | ⟨-, hunmapped, -⟩
  -- The two refusals first; a read of a control register keeps ACCERR.
  pick_goal 9
  · exact .inl hunmapped
  pick_goal 8
  · refine .inr ⟨fun hidle => ?_, hw⟩
    simp [hostRead, h, readWindow, hidle, h0] at h1
  all_goals simp [hostRead, h.2, h0] at h1

/-- An operation that does not write ACCERR sets it only by being refused, on a busy block (R64 item 3). -/
theorem busy_of_whenIdle_accerr (f : State → State) (s : State) (hf : (f s).accerr = s.accerr) (h0 : s.accerr = false)
    (h1 : (whenIdle f s).accerr = true) : s.phase ≠ .idle := by
  intro hidle
  simp [whenIdle_idle f s hidle, hf, h0] at h1

/-- A host write that sets ACCERR is one that R66 lists. -/
theorem refusedWrite_of_accerr (idx : Index) (v : Word) (s : State) (h0 : s.accerr = false)
    (h1 : (hostWrite idx v s).accerr = true) : RefusedWrite s idx v := by
  rcases target_cases s.limbs idx with
    ⟨rfl, -⟩ | ⟨rfl, -⟩ | ⟨rfl, -⟩ | ⟨rfl, -⟩ | ⟨rfl, -⟩ | ⟨rfl, -⟩ | ⟨rfl, -⟩ | ⟨hw, -, -, -, -, h⟩ | ⟨-, hunmapped, -⟩
  · exact .inr (.inl rfl)
  · exact .inr (.inr (.inl rfl))
  · rw [hostWrite_cmd] at h1
    exact .inr (.inr (.inr (.inr ⟨busy_of_whenIdle_accerr _ s rfl h0 h1, .inr (.inl rfl)⟩)))
  · rw [hostWrite_status, writeStatus_eq] at h1
    simp [h0] at h1
  · rw [hostWrite_ctrl, writeCtrl] at h1
    by_cases hv : v.getLsbD 1 = true
    · refine .inr (.inr (.inr (.inr ⟨fun hidle => ?_, .inr (.inr (.inr ⟨rfl, hv⟩))⟩)))
      rw [if_pos hv, hidle] at h1
      simp at h1
    · rw [if_neg hv] at h1
      simp [h0] at h1
  · rw [hostWrite_rounds] at h1
    exact .inr (.inr (.inr (.inr ⟨busy_of_whenIdle_accerr _ s rfl h0 h1, .inr (.inr (.inl rfl))⟩)))
  · exact .inr (.inr (.inr (.inl rfl)))
  · simp only [hostWrite, h] at h1
    exact .inr (.inr (.inr (.inr ⟨busy_of_whenIdle_accerr _ s rfl h0 h1, .inl hw⟩)))
  · exact .inl hunmapped

/-- A host write that clears ACCERR writes STATUS with bit 5 set or is the soft reset of an idle block (R33). -/
theorem hostWrite_clears_accerr (idx : Index) (v : Word) (s : State) (h0 : s.accerr = true)
    (h1 : (hostWrite idx v s).accerr = false) :
    (idx = 3 ∧ v.getLsbD 5 = true) ∨ (s.phase = .idle ∧ idx = 4 ∧ v.getLsbD 1 = true) := by
  rcases hostWrite_cases idx v s with
    h | ⟨hidx, h⟩ | ⟨-, -, h⟩ | ⟨hp, hidx, hv, -⟩ | ⟨-, -, h⟩ | ⟨-, -, h⟩ | ⟨-, i, j, -, -, -, h⟩
  · simp [h] at h1
  · exact .inl ⟨hidx, by simpa [h, writeStatus_eq, h0] using h1⟩
  · simp [h, h0] at h1
  · exact .inr ⟨hp, hidx, hv⟩
  · simp [h, h0] at h1
  · simp [h, h0] at h1
  · simp [h, h0, writeLimb] at h1

/-- A host read never clears ACCERR. -/
theorem hostRead_keeps_accerr (idx : Index) (s : State) (h0 : s.accerr = true) : (hostRead idx s).2.accerr = true := by
  rcases hostRead_cases idx s with h | h <;> rw [h]
  · exact h0
  · rfl

end Sys2Proof.Machine

namespace Sys2Proof.Proofs

open Sys2Proof.Machine Sys2Proof.Safety

/-- Settles O28: a command with a destination ends in `raiseError` or in `writeResult`. -/
theorem modularCommandsChangeOnlyTheirDestinationAndFlags :
    Obligations.ModularCommandsChangeOnlyTheirDestinationAndFlags := by
  intro i rd s t hd hx
  rcases exec_dest_cases i rd s hd with ⟨c, -, he⟩ | ⟨v, he⟩ <;> obtain rfl : _ = t := by simpa [he] using hx
  · exact ⟨fun q _ => readReg_raiseError s q c, fun _ q => readReg_raiseError s q c, rfl⟩
  · exact ⟨fun q hq => readReg_writeResult_ne rd q v s hq, fun herr => by simp [writeResult] at herr, rfl⟩

/-- Settles O34: a command does the same to two states that agree on its sources. -/
theorem withOtherStateEqualTheOutcomeDependsOnSourceRegistersOnly :
    Obligations.WithOtherStateEqualTheOutcomeDependsOnSourceRegistersOnly := by
  intro i s t y hsrc hx
  rcases exec_sameOutcome i s { s with x := y } hsrc with ⟨c, he, he'⟩ | ⟨rd, m, v, hd, -, he, he'⟩ | ⟨rs1, rfl, he, he'⟩ <;>
    obtain rfl : _ = t := by simpa [he] using hx
  · exact ⟨_, he', rfl, fun _ _ herr => by simp at herr⟩
  · refine ⟨_, he', rfl, fun q hq _ => ?_⟩
    obtain rfl : rd = q := by simpa [hd] using hq
    simp
  · exact ⟨_, he', by rw [firstStep_withRegisters], fun _ hq => by simp [destReg] at hq⟩

/-- Settles O31: no read, no answer and no other command reaches the general registers. -/
theorem onlyTheseStepsChangeAGeneralRegister : Obligations.OnlyTheseStepsChangeAGeneralRegister := by
  intro s t e i ha hne
  rcases agentStep_cases s t e ha with ⟨idx, -, rfl⟩ | ⟨idx, v, rfl, rfl⟩ | ⟨rfl, -⟩ | ⟨a, -, hd⟩ | ⟨rfl, hs⟩
  · rcases hostRead_cases idx s with h | h <;> simp [h] at hne
  · obtain ⟨hp, ⟨rfl, hv⟩ | ⟨j, hj, hj', rfl⟩⟩ := hostWrite_changes_reg idx v s i hne
    · exact .inr (.inl ⟨hp, v, rfl, hv⟩)
    · exact .inr (.inr (.inl ⟨hp, j, v, hj, hj', rfl⟩))
  · exact .inl rfl
  · rcases hd with ⟨-, rfl⟩ | ⟨-, rfl⟩
    · exact absurd (readReg_congr s _ (takeAnswer_x a s) i) hne
    · exact absurd rfl hne
  · rcases hs with ⟨-, rfl⟩ | ⟨hp, ⟨_, -, rfl⟩ | ⟨c, hc, hx⟩⟩
    · exact absurd rfl hne
    · exact absurd (readReg_raiseError s i _) hne
    · exact .inr (.inr (.inr ⟨hp, rfl, c, hc, destReg_of_exec_changes c s t i hx hne⟩))

/-- Settles O47: a taken answer counts, and of the other steps only acceptance and the resets write RNDCNT. -/
theorem rndcntCountsTheAnswersTaken : Obligations.RndcntCountsTheAnswersTaken := by
  intro s t e ha
  rcases agentStep_cases s t e ha with ⟨idx, rfl, rfl⟩ | ⟨idx, v, rfl, rfl⟩ | ⟨rfl, rfl⟩ | ⟨a, rfl, hd⟩ | ⟨rfl, hs⟩
  · exact ⟨by simp, fun hne => absurd (hostRead_rndcnt idx s) hne⟩
  · exact ⟨by simp, fun hne => .inr (.inl ((hostWrite_rndcnt idx v s).resolve_left hne))⟩
  · exact ⟨by simp, fun _ => .inr (.inr ⟨rfl, rfl⟩)⟩
  · rcases hd with ⟨hp, rfl⟩ | ⟨hp, rfl⟩
    · exact ⟨fun _ _ => takeAnswer_rndcnt a s, fun _ => .inl ⟨hp, a, rfl⟩⟩
    · exact ⟨fun hp' => absurd hp' hp, fun hne => absurd rfl hne⟩
  · refine ⟨by simp, fun hne => absurd ?_ hne⟩
    rcases hs with ⟨-, rfl⟩ | ⟨-, ⟨_, -, rfl⟩ | ⟨i, -, hx⟩⟩
    · rfl
    · rfl
    · exact exec_rndcnt i s t hx

/-- Settles O52: host transactions and the hard reset are the only steps that write ACCERR. -/
theorem accerrIsStickyAndSetByRefusalsOnly : Obligations.AccerrIsStickyAndSetByRefusalsOnly := by
  intro s t e ha
  rcases agentStep_cases s t e ha with ⟨idx, rfl, rfl⟩ | ⟨idx, v, rfl, rfl⟩ | ⟨rfl, rfl⟩ | ⟨a, -, hd⟩ | ⟨-, hs⟩
  · exact ⟨fun h0 h1 => .inl ⟨idx, rfl, refusedRead_of_accerr idx s h0 h1⟩,
      fun h0 h1 => by simp [hostRead_keeps_accerr idx s h0] at h1⟩
  · refine ⟨fun h0 h1 => .inr ⟨idx, v, rfl, refusedWrite_of_accerr idx v s h0 h1⟩, fun h0 h1 => .inr ?_⟩
    rcases hostWrite_clears_accerr idx v s h0 h1 with ⟨rfl, hv⟩ | ⟨hp, rfl, hv⟩
    · exact .inl ⟨v, rfl, hv⟩
    · exact .inr ⟨hp, v, rfl, hv⟩
  · exact ⟨fun _ h1 => by simp at h1, fun _ _ => .inl rfl⟩
  all_goals
    suffices hkeep : t.accerr = s.accerr by simp +contextual [hkeep]
  · rcases hd with ⟨-, rfl⟩ | ⟨-, rfl⟩
    · exact takeAnswer_accerr a s
    · rfl
  · rcases hs with ⟨-, rfl⟩ | ⟨-, ⟨_, -, rfl⟩ | ⟨i, -, hx⟩⟩
    · rfl
    · rfl
    · exact exec_accerr i s t hx

end Sys2Proof.Proofs
end

section
/-! PROOFS, 10_state: what moves PHASE and by which agent (R44, R45, R46, R103). -/

namespace Sys2Proof.Machine

open Sys2Proof.Safety

theorem hostRead_phase (idx : Index) (s : State) : (hostRead idx s).2.phase = s.phase := by
  rcases hostRead_cases idx s with h | h <;> rw [h]
  rfl

/-- A host write leaves PHASE, unless it is the acceptance of a command (R45). The soft reset finds the block idle. -/
theorem hostWrite_phase (idx : Index) (v : Word) (s : State) :
    (hostWrite idx v s).phase = s.phase ∨ (s.phase = .idle ∧ idx = 2 ∧ (hostWrite idx v s).phase = .exec) := by
  rcases hostWrite_cases idx v s with
    h | ⟨-, h⟩ | ⟨-, -, h⟩ | ⟨hp, -, -, h⟩ | ⟨hp, hidx, h⟩ | ⟨-, -, h⟩ | ⟨-, i, j, -, -, -, h⟩ <;> rw [h]
  · exact .inl rfl
  · exact .inl (by rw [writeStatus_eq])
  · exact .inl rfl
  · exact .inl hp.symm
  · exact .inr ⟨hp, hidx, rfl⟩
  · exact .inl rfl
  · exact .inl rfl

/-- A response step completes the command or waits for the next answer (R127). -/
theorem takeAnswer_phase (a : Nat) (s : State) : (takeAnswer a s).phase = .idle ∨ (takeAnswer a s).phase = .rngWait := by
  rcases takeAnswer_cases a s with ⟨-, h⟩ | ⟨-, ⟨-, h⟩ | ⟨-, -, h⟩ | ⟨-, -, h⟩⟩ <;> simp [h]

/-- The sequencer's step completes the command, unless it is a PTEST that waits for an answer (R44). -/
theorem exec_phase (i : Instr) (s t : State) (h : exec i s = .next t) :
    t.phase = .idle ∨ (t.phase = .rngWait ∧ ∃ rs1, i = .ptest rs1) := by
  rcases exec_cases i s t h with ⟨rd, -, ⟨c, -, rfl⟩ | ⟨v, rfl⟩⟩ | ⟨rs1, rfl, rfl⟩
  · exact .inl rfl
  · exact .inl rfl
  · rcases firstStep_cases (readReg s rs1) s with ⟨v, -, hs⟩ | ⟨-, -, ⟨-, hs⟩ | ⟨-, hs⟩⟩ <;> rw [hs]
    · exact .inl rfl
    · exact .inl rfl
    · exact .inr ⟨rfl, rs1, rfl⟩

/-- The moves of PHASE (R44): it stays, by a step that is neither the hard reset nor the sequencer's in EXEC; or it moves by
acceptance, by the hard reset, by the sequencer, or by an answer that ends the test. -/
theorem agentStep_phase (e : Event) (s t : State) (h : agentStep e s = .next t) :
    (t.phase = s.phase ∧ e ≠ .hardReset ∧ (s.phase = .exec → e ≠ .sequencer))
      ∨ (s.phase = .idle ∧ t.phase = .exec ∧ ∃ w, e = .hostWrite 0x002 w)
      ∨ (t.phase = .idle ∧ e = .hardReset)
      ∨ (s.phase = .exec ∧ e = .sequencer
          ∧ (t.phase = .idle ∨ (t.phase = .rngWait ∧ ∃ rs1, decode s.cmd = .ok (.ptest rs1))))
      ∨ (s.phase = .rngWait ∧ t.phase = .idle ∧ ∃ a, e = .draw a) := by
  rcases agentStep_cases s t e h with ⟨idx, rfl, rfl⟩ | ⟨idx, v, rfl, rfl⟩ | ⟨rfl, rfl⟩ | ⟨a, rfl, hd⟩ | ⟨rfl, hs⟩
  · exact .inl ⟨hostRead_phase idx s, by simp, by simp⟩
  · rcases hostWrite_phase idx v s with hp | ⟨hp, rfl, hx⟩
    · exact .inl ⟨hp, by simp, by simp⟩
    · exact .inr (.inl ⟨hp, hx, v, rfl⟩)
  · exact .inr (.inr (.inl ⟨rfl, rfl⟩))
  · rcases hd with ⟨hp, rfl⟩ | ⟨-, rfl⟩
    · rcases takeAnswer_phase a s with hi | hw
      · exact .inr (.inr (.inr (.inr ⟨hp, hi, a, rfl⟩)))
      · exact .inl ⟨hw.trans hp.symm, by simp, by simp⟩
    · exact .inl ⟨rfl, by simp, by simp⟩
  · rcases hs with ⟨hp, rfl⟩ | ⟨hp, ⟨_, -, rfl⟩ | ⟨i, hi, hx⟩⟩
    · exact .inl ⟨rfl, by simp, fun hp' => absurd hp' hp⟩
    · exact .inr (.inr (.inr (.inl ⟨hp, rfl, .inl rfl⟩)))
    · refine .inr (.inr (.inr (.inl ⟨hp, rfl, ?_⟩)))
      rcases exec_phase i s t hx with hidle | ⟨hw, rs1, rfl⟩
      · exact .inl hidle
      · exact .inr ⟨hw, rs1, hi⟩

/-- The random source has no step when PHASE is not RNGWAIT (R48). -/
theorem respond_of_ne_rngWait (a : Nat) (s : State) (h : s.phase ≠ .rngWait) : respond a s = s := by
  unfold respond
  split
  · contradiction
  · rfl
  · rfl

/-- The sequencer's step in EXEC on a legal word is the command (R46). -/
theorem sequencerStep_of_decode (s : State) (i : Instr) (hp : s.phase = .exec) (hd : decode s.cmd = .ok i) :
    sequencerStep s = exec i s := by
  simp only [sequencerStep, hp, executeCmd, hd]

/-- The sequencer's scheduled step runs the command, on the state without that entry of the schedule. -/
theorem step_scheduled_sequencer (s : State) (i : Instr) (rest : List Event) (hp : s.phase = .exec)
    (hd : decode s.cmd = .ok i) (hs : s.env.schedule = .sequencer :: rest) :
    step s = exec i { s with env := { s.env with schedule := rest } } :=
  (step_scheduled s _ rest hs).trans (sequencerStep_of_decode _ i hp hd)

/-- A write to CMD of an idle block is the acceptance of the word (R45). -/
theorem agentStep_accept (w : Word) (s : State) (h : s.phase = .idle) :
    agentStep (.hostWrite 0x002 w) s = .next (accept w s) := by
  rw [agentStep, hostWrite_cmd, whenIdle_idle _ s h]

/-- A run of one step is that step. -/
theorem run_one (s : State) : Host.Core.run core 1 s = step s := by
  cases h : step s with
  | next t => exact run_succ s t 0 h
  | fault r => cases r
  | refused r => simp only [Host.Core.run, core, h]

/-- Without a standing request PHASE is not RNGWAIT (R48). -/
theorem phase_ne_rngWait_of_request (s : State) (h : request s = none) : s.phase ≠ .rngWait := by
  intro hp
  simp [request, hp] at h

end Sys2Proof.Machine

namespace Sys2Proof

/-- The word of a command has the command's fields (R91 to R99). -/
theorem splitWord_encode (i : Instr) : splitWord (encode i) = i.fields := by
  cases i with
  | ptest a => exact Laws.SpellingHasFields.ptest a
  | modinv d a m => exact Laws.SpellingHasFields.modinv d a m
  | modexp d a b m => exact Laws.SpellingHasFields.modexp d a b m
  | modred d a m => exact Laws.SpellingHasFields.modred d a m
  | modmul d a b m => exact Laws.SpellingHasFields.modmul d a b m

/-- The decoder reads the word of a command as that command (R93, R99). Said of the fields, a row's mask clears the registers the
command names and keeps what the row fixes; what is left to compute are the fields of the masks. -/
theorem decode_encode (i : Instr) : decode (encode i) = .ok i := by
  have hfields := splitWord_encode i
  cases i <;> simp [decode, matchesRow_iff, splitWord_and, hfields, Instr.fields] <;> simp [splitWord]

end Sys2Proof

namespace Sys2Proof.Proofs

open Sys2Proof.Machine Sys2Proof.Safety

/-- Settles O16: each move that `agentStep_phase` lists is one the rule lists. -/
theorem phaseMovesOnlyAsListed : Obligations.PhaseMovesOnlyAsListed := by
  intro s t hstep
  have hmove := agentStep_phase _ _ _ hstep
  simp only [popEvent_phase, popEvent_cmd] at hmove
  rcases hmove with ⟨hp, hreset, hseq⟩ | ⟨hs, ht, hw⟩ | ⟨ht, he⟩ | ⟨hs, he, ht | ⟨ht, hpt⟩⟩ | ⟨hs, ht, ha⟩
  · rw [hp]
    cases hs : s.phase with
    | idle => trivial
    | exec => exact ⟨hseq hs, hreset⟩
    | rngWait => exact hreset
  · rw [hs, ht]
    exact hw
  · rw [ht]
    cases s.phase with
    | idle => trivial
    | exec => exact .inr he
    | rngWait => exact .inl he
  · rw [hs, ht]
    exact .inl he
  · rw [hs, ht]
    exact ⟨he, hpt⟩
  · rw [hs, ht]
    exact .inr ha

/-- Settles O13: the first step is the acceptance of the command's word, which the second step decodes to the command. -/
theorem anIssuedCommandIsTheOneThatRuns : Obligations.AnIssuedCommandIsTheOneThatRuns := by
  intro s i rest hp hs
  have haccept : step s = .next (accept (encode i) { s with env := { s.env with schedule := .sequencer :: rest } }) :=
    (step_scheduled s _ _ hs).trans (agentStep_accept (encode i) _ hp)
  rw [run_succ s _ 1 haccept, run_one]
  exact step_scheduled_sequencer _ i rest rfl (decode_encode i) rfl

/-- Settles O12: whether it is scheduled or moves by itself, the sequencer runs the decoded command. -/
theorem aStepOfTheSequencerRunsTheDecodedCommand : Obligations.AStepOfTheSequencerRunsTheDecodedCommand :=
  fun s i hp hd => ⟨fun hs => (step_unscheduled s hs).trans (sequencerStep_of_decode s i hp hd),
    fun rest hs => step_scheduled_sequencer s i rest hp hd hs⟩

/-- Settles O15: the write is the acceptance, which clears DONE. -/
theorem acceptanceLatchesAndClears : Obligations.AcceptanceLatchesAndClears := by
  intro s w hp
  exact ⟨agentStep_accept w s hp, Bool.and_false _⟩

/-- Settles O46: without a request PHASE is not RNGWAIT, and the random source has no step. -/
theorem anAnswerWithoutARequestDoesNothing : Obligations.AnAnswerWithoutARequestDoesNothing := by
  intro a s hnone
  rw [agentStep, respond_of_ne_rngWait a s (phase_ne_rngWait_of_request s hnone)]

end Sys2Proof.Proofs
end

section
/-! PROOFS, 10_state: the reset state (R52), the STATUS word (R28) and the interrupt line (R41). -/

namespace Sys2Proof.Machine

/-- A hard reset of a block that nothing happened to since its reset changes nothing (R52, R241). -/
theorem resetBlock_resetWith (n : Nat) : resetBlock (State.resetWith n) = State.resetWith n := rfl

/-- A write to STATUS clears what its bits 1 and 5 select (R37). -/
theorem agentStep_status (v : Word) (s : State) :
    agentStep (.hostWrite 0x003 v) s =
      .next { s with
        done := if v.getLsbD 1 then false else s.done, accerr := if v.getLsbD 5 then false else s.accerr } := by
  rw [agentStep, hostWrite_status, writeStatus_eq]

/-- A write to CTRL with bit 1 clear writes IE and nothing else (R38). -/
theorem agentStep_ctrl (v : Word) (s : State) (h : v.getLsbD 1 = false) :
    agentStep (.hostWrite 0x004 v) s = .next { s with ie := v.getLsbD 0 } := by
  rw [agentStep, hostWrite_ctrl, writeCtrl, h]
  simp

end Sys2Proof.Machine

namespace Sys2Proof.Proofs

open Sys2Proof.Machine Sys2Proof.Safety

/-- Settles O2: `Config.limbs` is one more than a number below 128, and everything else is written out in `State.resetWith`. -/
theorem theMachineStartsAsAResetLeavesIt : Obligations.TheMachineStartsAsAResetLeavesIt :=
  ⟨rfl, one_le_configLimbs, configLimbs_le, congrArg Host.Outcome.next (resetBlock_resetWith Config.limbs)⟩

/-- Settles O53: each bit stands in the piece of `statusWord` whose place it is. -/
theorem statusWordHasTheListedLayout : Obligations.StatusWordHasTheListedLayout := by
  intro s
  refine ⟨?busy, ?_, ?_, ?_, ?_, ?_, ?waiting, ?_, fun k hk => ?code, fun k hk => ?high⟩
  all_goals simp only [statusWord, BitVec.getLsbD_append]
  case busy => cases hp : s.phase <;> simp [busy, hp]
  case waiting => cases hp : s.phase <;> simp [rngWaiting, hp]
  case code =>
    repeat rw [if_neg (by omega)]
    rw [if_pos (by omega)]
    congr 1
    omega
  case high =>
    repeat rw [if_neg (by omega)]
    exact BitVec.getLsbD_zero
  all_goals simp

/-- Settles O57: `ACK` writes DONE, and IRQOFF and IRQON write IE; the line is their conjunction. -/
theorem theInterruptLineFollowsDoneAndItsEnable : Obligations.TheInterruptLineFollowsDoneAndItsEnable := by
  intro s
  exact ⟨rfl, agentStep_status _ s, Bool.and_false _, agentStep_ctrl _ s rfl, Bool.false_and _, agentStep_ctrl _ s rfl,
    Bool.true_and _⟩

end Sys2Proof.Proofs
end

section
/-! PROOFS, 20_memory: one host transaction. What is refused (R66), what a read returns (R63), what a write does (R64), and what a
running command is safe from (R75, R251, R252). -/

namespace Sys2Proof.Machine

open Sys2Proof.Safety

/-- The word index of a limb, as a number (R61): it does not wrap around. -/
theorem windowIndex_toNat (i : Reg) (j : Nat) (hj : j < 128) : (windowIndex i j).toNat = 0x400 + 0x80 * i.val + j := by
  have hi := i.isLt
  simp only [windowIndex, Config.regBase, Config.regStride, BitVec.toNat_ofNat]
  exact Nat.mod_eq_of_lt (by omega)

/-- A write to CTRL with bit 1 clear sets IE, in every phase (R38). -/
theorem hostWrite_ctrl_enable (v : Word) (s : State) (h : v.getLsbD 1 = false) :
    hostWrite 0x004 v s = { s with ie := v.getLsbD 0 } :=
  Host.Outcome.next.inj (agentStep_ctrl v s h)

/-! ## Refusals (R66) -/

theorem readWindow_idle (i : Reg) (j : Nat) (s : State) (h : s.phase = .idle) :
    readWindow i j s = (limb (readReg s i) j, s) := by
  simp only [readWindow, h]

theorem readWindow_busy (i : Reg) (j : Nat) (s : State) (h : s.phase ≠ .idle) : readWindow i j s = (0, refuse s) := by
  unfold readWindow
  split
  · contradiction
  · rfl
  · rfl

/-- A host read is on R66's list, returns 0 and sets ACCERR, or it is not and changes nothing (R63). -/
theorem hostRead_refused_or_performed (idx : Index) (s : State) :
    (RefusedRead s idx ∧ hostRead idx s = (0, refuse s)) ∨ (¬ RefusedRead s idx ∧ (hostRead idx s).2 = s) := by
  rcases target_cases s.limbs idx with
    ⟨rfl, ht⟩ | ⟨rfl, ht⟩ | ⟨rfl, ht⟩ | ⟨rfl, ht⟩ | ⟨rfl, ht⟩ | ⟨rfl, ht⟩ | ⟨rfl, ht⟩ | ⟨hw, hmapped, -, -, -, ht⟩
      | ⟨-, hunmapped, ht⟩
  -- The unmapped indices and the window first; a control register can always be read.
  pick_goal 9
  · exact .inl ⟨.inl hunmapped, by rw [hostRead, ht]⟩
  pick_goal 8
  · have hr : hostRead idx s = readWindow (windowReg idx) (windowLimb idx) s := by rw [hostRead, ht]
    rw [hr]
    by_cases hp : s.phase = .idle
    · exact .inr ⟨by simp [RefusedRead, hmapped, hp], by rw [readWindow_idle _ _ s hp]⟩
    · exact .inl ⟨.inr ⟨hp, hw⟩, readWindow_busy _ _ s hp⟩
  all_goals exact .inr ⟨by simp [RefusedRead, Mapped], by rw [hostRead, ht]⟩

/-- A read that R66 lists returns 0 and sets ACCERR. -/
theorem hostRead_of_refusedRead (idx : Index) (s : State) (h : RefusedRead s idx) : hostRead idx s = (0, refuse s) := by
  rcases hostRead_refused_or_performed idx s with ⟨-, hr⟩ | ⟨hn, -⟩
  · exact hr
  · exact absurd h hn

/-- A read that R66 does not list changes nothing (R63). -/
theorem hostRead_state_of_not_refusedRead (idx : Index) (s : State) (h : ¬ RefusedRead s idx) : (hostRead idx s).2 = s := by
  rcases hostRead_refused_or_performed idx s with ⟨hr, -⟩ | ⟨-, hs⟩
  · exact absurd hr h
  · exact hs

/-- A write that R66 lists sets ACCERR and does nothing else: every other effect of a write is at a place and in a phase that the
list leaves out. -/
theorem hostWrite_of_refusedWrite (idx : Index) (v : Word) (s : State) (h : RefusedWrite s idx v) :
    hostWrite idx v s = refuse s := by
  rcases hostWrite_cases idx v s with
    hr | ⟨rfl, -⟩ | ⟨rfl, hv, -⟩ | ⟨hp, rfl, -⟩ | ⟨hp, rfl, -⟩ | ⟨hp, rfl, -⟩ | ⟨hp, i, j, hj, hj', rfl, -⟩
  · exact hr
  · simp [RefusedWrite, Mapped] at h
  · rw [RefusedWrite, hv] at h
    simp [Mapped] at h
  · simp [RefusedWrite, Mapped, hp] at h
  · simp [RefusedWrite, Mapped, hp] at h
  · simp [RefusedWrite, Mapped, hp] at h
  · have hmapped : Mapped s.limbs (windowIndex i j) := .inr (by rw [windowIndex_toNat i j hj']; omega)
    have hge : 0x400 ≤ (windowIndex i j).toNat := by rw [windowIndex_toNat i j hj']; omega
    simp only [RefusedWrite, hmapped, hp, ne_eq, not_true_eq_false, false_and, or_false, false_or] at h
    omega

/-- The writes that stay open while a command runs (R66 item (c)): STATUS, and CTRL without the soft reset. -/
theorem refusedWrite_or_open_of_busy (idx : Index) (v : Word) (s : State) (h : s.phase ≠ .idle) :
    RefusedWrite s idx v ∨ idx = 3 ∨ (idx = 4 ∧ v.getLsbD 1 = false) := by
  rcases target_cases s.limbs idx with
    ⟨rfl, -⟩ | ⟨rfl, -⟩ | ⟨rfl, -⟩ | ⟨rfl, -⟩ | ⟨rfl, -⟩ | ⟨rfl, -⟩ | ⟨rfl, -⟩ | ⟨hw, -⟩ | ⟨-, hunmapped, -⟩
  -- The unmapped indices, the window and CTRL first; each other control register is open or shut whatever is written.
  pick_goal 9
  · exact .inl (.inl hunmapped)
  pick_goal 8
  · exact .inl (.inr (.inr (.inr (.inr ⟨h, .inl hw⟩))))
  pick_goal 5
  · cases hv : v.getLsbD 1 <;> simp [RefusedWrite, h, hv]
  all_goals simp [RefusedWrite, h]

/-! ## Reads (R63) -/

theorem hostRead_at_id (s : State) : hostRead 0x000 s = (Config.idValue, s) := by simp [hostRead, target]
theorem hostRead_at_param (s : State) : hostRead 0x001 s = (paramWord s, s) := by simp [hostRead, target]
theorem hostRead_at_cmd (s : State) : hostRead 0x002 s = (s.cmd, s) := by simp [hostRead, target]
theorem hostRead_at_status (s : State) : hostRead 0x003 s = (statusWord s, s) := by simp [hostRead, target]
theorem hostRead_at_ctrl (s : State) : hostRead 0x004 s = (ctrlWord s, s) := by simp [hostRead, target]
theorem hostRead_at_rounds (s : State) : hostRead 0x005 s = (s.rounds, s) := by simp [hostRead, target]
theorem hostRead_at_rndcnt (s : State) : hostRead 0x006 s = (s.rndcnt, s) := by simp [hostRead, target]

/-- The CTRL word is IE (R38). -/
theorem ctrlWord_eq (s : State) : ctrlWord s = if s.ie then 1 else 0 := by
  rw [ctrlWord]
  cases s.ie <;> rfl

/-! ## A running command -/

/-- A step of the host is one of its two transactions (R63, R64). -/
theorem agentStep_host_cases (s t : State) (e : Event) (he : isHostEvent e = true) (h : agentStep e s = .next t) :
    (∃ idx, e = .hostRead idx ∧ t = deliver (hostRead idx s).1 (hostRead idx s).2)
      ∨ (∃ idx v, e = .hostWrite idx v ∧ t = hostWrite idx v s) := by
  rcases agentStep_cases s t e h with hr | hw | ⟨rfl, -⟩ | ⟨a, rfl, -⟩ | ⟨rfl, -⟩
  · exact .inl hr
  · exact .inr hw
  all_goals simp [isHostEvent] at he

/-- On a busy block a read's word and its effect do not depend on the general registers: the window is shut (R66, R251). -/
theorem hostRead_withRegisters_of_busy (idx : Index) (y : Vector Nat 8) (s : State) (h : s.phase ≠ .idle) :
    hostRead idx { s with x := y } = ((hostRead idx s).1, { (hostRead idx s).2 with x := y }) := by
  have hwindow : ∀ i j, readWindow i j { s with x := y } = ((readWindow i j s).1, { (readWindow i j s).2 with x := y }) :=
    fun i j => by rw [readWindow_busy i j s h, readWindow_busy i j { s with x := y } h]; rfl
  simp only [hostRead]
  cases target s.limbs idx with
  | window i j => exact hwindow i j
  | _ => rfl

/-- On a busy block a write neither reads nor writes the general registers (R66). -/
theorem hostWrite_withRegisters_of_busy (idx : Index) (v : Word) (y : Vector Nat 8) (s : State) (h : s.phase ≠ .idle) :
    hostWrite idx v { s with x := y } = { hostWrite idx v s with x := y } := by
  rcases refusedWrite_or_open_of_busy idx v s h with hr | rfl | ⟨rfl, hv⟩
  · rw [hostWrite_of_refusedWrite idx v s hr, hostWrite_of_refusedWrite idx v { s with x := y } hr]
    rfl
  · simp only [hostWrite_status, writeStatus_eq]
  · simp only [hostWrite_ctrl_enable v _ hv]

/-! ## No step stops the machine -/

/-- Every agent's step answers a next state: an error is a completion (R200, R204), a refusal sets ACCERR (R66). -/
theorem agentStep_next (e : Event) (s : State) : ∃ t, agentStep e s = .next t := by
  cases e with
  | sequencer =>
    by_cases hp : s.phase = .exec
    · cases hd : decode s.cmd with
      | ok i => simpa only [agentStep, sequencerStep_of_decode s i hp hd] using exec_next i s
      | error why => exact ⟨raiseError .illegalCommand s, by simp only [agentStep, sequencerStep, hp, executeCmd, hd]⟩
    · exact ⟨s, sequencerStep_of_ne_exec s hp⟩
  | _ => exact ⟨_, rfl⟩

end Sys2Proof.Machine

namespace Sys2Proof.Proofs

open Sys2Proof.Machine Sys2Proof.Safety

/-- Settles O51: the list is the one the port refuses by. -/
theorem refusedAccessesAreExactlyTheListedOnes : Obligations.RefusedAccessesAreExactlyTheListedOnes := by
  refine ⟨fun s idx h => hostRead_of_refusedRead idx s h, fun s idx h => hostRead_state_of_not_refusedRead idx s h,
    fun s idx v h => hostWrite_of_refusedWrite idx v s h, fun s idx v h h1 => ?_⟩
  by_contra h0
  exact h (refusedWrite_of_accerr idx v s (Bool.eq_false_iff.2 h0) h1)

/-- Settles O48: the seven control registers, the window while idle, and the refusals. -/
theorem hostReadsReturnTheListedWords : Obligations.HostReadsReturnTheListedWords := by
  intro s hn
  refine ⟨hostRead_at_id s, hostRead_at_param s, hostRead_at_cmd s, hostRead_at_status s, ?_, hostRead_at_rounds s,
    hostRead_at_rndcnt s, fun i j hj hp => ?_, fun idx h => hostRead_of_refusedRead idx s h⟩
  · rw [hostRead_at_ctrl, ctrlWord_eq]
  · rw [hostRead_window i j s hj hn, readWindow_idle i j s hp, limb]

/-- Settles O49: STATUS and CTRL in every phase, and the writes that an idle block performs. -/
theorem hostWritesDoWhatIsListed : Obligations.HostWritesDoWhatIsListed := by
  intro s v hn
  refine ⟨?status, fun hv => ?ctrl, fun hp => ⟨?cmd, ?rounds, fun i j hj => ?window⟩⟩
  case status => rw [hostWrite_status, writeStatus_eq]
  case ctrl => exact hostWrite_ctrl_enable v s hv
  case cmd =>
    rw [hostWrite_cmd, whenIdle_idle _ s hp]
    rfl
  case rounds =>
    rw [hostWrite_rounds, whenIdle_idle _ s hp]
    rfl
  case window =>
    rw [hostWrite_window i j v s hj hn, whenIdle_idle _ s hp]
    rfl

/-- Settles O32: a read at most sets ACCERR, and of the writes only those to STATUS and to CTRL are not refused. -/
theorem hostCannotDisturbARunningCommand : Obligations.HostCannotDisturbARunningCommand := by
  intro s t e hbusy he h
  rcases agentStep_host_cases s t e he h with ⟨idx, -, rfl⟩ | ⟨idx, v, -, rfl⟩
  · rcases hostRead_cases idx s with hr | hr <;> rw [hr] <;> exact ⟨rfl, rfl, id⟩
  · rcases refusedWrite_or_open_of_busy idx v s hbusy with hr | rfl | ⟨rfl, hv⟩
    · rw [hostWrite_of_refusedWrite idx v s hr]
      exact ⟨rfl, rfl, id⟩
    · rw [hostWrite_status, writeStatus_eq]
      exact ⟨rfl, rfl, by simp⟩
    · rw [hostWrite_ctrl_enable v s hv]
      exact ⟨rfl, rfl, id⟩

/-- Settles O33: both transactions on a busy block commute with a change of the general registers. -/
theorem busyPortRevealsNoGeneralRegister : Obligations.BusyPortRevealsNoGeneralRegister := by
  intro s t y e hbusy he h
  rcases agentStep_host_cases s t e he h with ⟨idx, rfl, rfl⟩ | ⟨idx, v, rfl, rfl⟩
  · rw [agentStep, hostRead_withRegisters_of_busy idx y s hbusy]
    rfl
  · rw [agentStep, hostWrite_withRegisters_of_busy idx v y s hbusy]

/-- Settles O18: the commands and the agents answer next states, and a step of the machine is an agent's. -/
theorem noStepEverStopsTheMachine : Obligations.NoStepEverStopsTheMachine :=
  ⟨exec_next, fun s => agentStep_next (nextEvent s) (popEvent s)⟩

/-- Settles O54: a refused read is refused again, with the word 0; any other leaves the state as it was. -/
theorem readingTwiceReturnsTheSameWord : Obligations.ReadingTwiceReturnsTheSameWord := by
  intro s idx
  by_cases h : RefusedRead s idx
  · rw [hostRead_of_refusedRead idx s h, hostRead_of_refusedRead idx (refuse s) h]
  · rw [hostRead_state_of_not_refusedRead idx s h]

end Sys2Proof.Proofs
end

section
/-! PROOFS, 20_memory: moving a whole register through the port, limb by limb (R61, R62, R77). -/

namespace Sys2Proof.Machine

/-! ## A value and its limbs (R62) -/

/-- The limbs above limb 0 are those of the value without its low 32 bits. -/
theorem limb_succ (v j : Nat) : limb v (j + 1) = limb (v / 2 ^ 32) j := by
  rw [limb, limb, Nat.div_div_eq_div_mul, ← pow_add, mul_add, mul_one, add_comm]

/-- The first `n` limbs of a value below 2^(32*n) add up to it. -/
theorem joinLimbs_limbs (n v : Nat) (hv : v < 2 ^ (32 * n)) : joinLimbs ((List.range n).map (limb v)) = v := by
  induction n generalizing v with
  | zero =>
    have h0 : v = 0 := by simpa using hv
    simp [joinLimbs, h0]
  | succ n ih =>
    have hhigh : v / 2 ^ 32 < 2 ^ (32 * n) := by
      rw [Nat.div_lt_iff_lt_mul (by decide), ← pow_add, ← mul_add_one]
      exact hv
    have hrest : (List.range n).map (limb v ∘ Nat.succ) = (List.range n).map (limb (v / 2 ^ 32)) :=
      List.map_congr_left fun j _ => limb_succ v j
    rw [List.range_succ_eq_map, List.map_cons, List.map_map, hrest, joinLimbs, ih _ hhigh]
    rw [limb, mul_zero, pow_zero, Nat.div_one, BitVec.toNat_ofNat]
    exact Nat.mod_add_div v (2 ^ 32)

/-- Two values below 2^(32*n) with the same first `n` limbs are equal. -/
theorem eq_of_limb_eq (n u v : Nat) (hu : u < 2 ^ (32 * n)) (hv : v < 2 ^ (32 * n))
    (h : ∀ k, k < n → limb u k = limb v k) : u = v := by
  rw [← joinLimbs_limbs n u hu, ← joinLimbs_limbs n v hv,
    List.map_congr_left fun k hk => h k (List.mem_range.1 hk)]

/-- `u` after the limbs listed in `js` have been replaced by those of `v`, in that order. -/
def copyLimbs (v : Nat) (js : List Nat) (u : Nat) : Nat := js.foldl (fun u j => setLimb u j (limb v j)) u

theorem copyLimbs_cons (v j : Nat) (js : List Nat) (u : Nat) :
    copyLimbs v (j :: js) u = copyLimbs v js (setLimb u j (limb v j)) := rfl

/-- A copied limb is that of `v`; so is one in which the two values agreed before. -/
theorem limb_copyLimbs (v : Nat) (js : List Nat) (u k : Nat) (h : k ∈ js ∨ limb u k = limb v k) :
    limb (copyLimbs v js u) k = limb v k := by
  induction js generalizing u with
  | nil => exact h.resolve_left List.not_mem_nil
  | cons j js ih =>
    rw [copyLimbs_cons]
    by_cases hk : k = j
    · exact ih _ (.inr (by rw [hk, limb_setLimb_same]))
    · exact ih _ (by simpa [hk, limb_setLimb_ne u j k _ hk] using h)

/-- Copying limbs that the value has keeps it below its width (R22). -/
theorem copyLimbs_lt (v n : Nat) (js : List Nat) (u : Nat) (hjs : ∀ j ∈ js, j < n) (hu : u < 2 ^ (32 * n)) :
    copyLimbs v js u < 2 ^ (32 * n) := by
  induction js generalizing u with
  | nil => exact hu
  | cons j js ih =>
    obtain ⟨hj, hrest⟩ := List.forall_mem_cons.1 hjs
    exact ih _ hrest (setLimb_lt u j n _ hj hu)

/-- Copying every limb of `v` gives `v`, whatever was there (R62). -/
theorem copyLimbs_range (n u v : Nat) (hu : u < 2 ^ (32 * n)) (hv : v < 2 ^ (32 * n)) :
    copyLimbs v (List.range n) u = v :=
  eq_of_limb_eq n _ v (copyLimbs_lt v n _ u (fun _ => List.mem_range.1) hu) hv
    fun k hk => limb_copyLimbs v _ u k (.inl (List.mem_range.2 hk))

/-! ## The runs -/

/-- A write of a limb to an idle block (R64 item 6). -/
theorem agentStep_writeLimb (i : Reg) (j : Nat) (w : Word) (s : State) (hp : s.phase = .idle) (hn : s.limbs ≤ 128)
    (hj : j < s.limbs) : agentStep (.hostWrite (windowIndex i j) w) s = .next (writeLimb i j w s) := by
  rw [agentStep, hostWrite_window i j w s hj hn, whenIdle_idle _ s hp]

/-- A read of a limb of an idle block (R63 item 2). -/
theorem agentStep_readLimb (i : Reg) (j : Nat) (s : State) (hp : s.phase = .idle) (hn : s.limbs ≤ 128)
    (hj : j < s.limbs) : agentStep (.hostRead (windowIndex i j)) s = .next (deliver (limb (readReg s i) j) s) := by
  rw [agentStep, hostRead_window i j s hj hn, readWindow_idle i j s hp]

/-- Writing back what a register holds changes nothing. -/
theorem set_readReg (s : State) (i : Reg) : s.x.set i.val (readReg s i) i.isLt = s.x :=
  Vector.set_getElem_self i.isLt

/-- The writes of the listed limbs of `v` to an idle block copy these limbs to x[i] and do nothing else. -/
theorem run_writeLimbs (i : Reg) (v : Nat) (rest : List Event) (js : List Nat) (s : State) (hp : s.phase = .idle)
    (hn : s.limbs ≤ 128) (hjs : ∀ j ∈ js, j < s.limbs)
    (hs : s.env.schedule = js.map (fun j => .hostWrite (windowIndex i j) (limb v j)) ++ rest) :
    Host.Core.run core js.length s =
      .next { s with
        x := s.x.set i.val (copyLimbs v js (readReg s i)) i.isLt, env := { s.env with schedule := rest } } := by
  induction js generalizing s with
  | nil =>
    obtain rfl : s.env.schedule = rest := hs
    rw [copyLimbs, List.foldl_nil, set_readReg]
    exact run_zero s
  | cons j js ih =>
    obtain ⟨hj, hrest⟩ := List.forall_mem_cons.1 hjs
    have hstep := (step_scheduled s _ _ hs).trans (agentStep_writeLimb i j (limb v j) _ hp hn hj)
    have hrun := (run_succ s _ js.length hstep).trans (ih _ hp hn hrest rfl)
    rw [writeLimb, readReg_writeReg_same, writeReg_x, Vector.set_set] at hrun
    exact hrun

/-- The reads of the listed limbs of x[i] of an idle block hand these limbs to the host and do nothing else. -/
theorem run_readLimbs (i : Reg) (rest : List Event) (js : List Nat) (s : State) (hp : s.phase = .idle)
    (hn : s.limbs ≤ 128) (hjs : ∀ j ∈ js, j < s.limbs)
    (hs : s.env.schedule = js.map (fun j => .hostRead (windowIndex i j)) ++ rest) :
    Host.Core.run core js.length s =
      .next { s with env := { schedule := rest, reads := (js.map (limb (readReg s i))).reverse ++ s.env.reads } } := by
  induction js generalizing s with
  | nil =>
    obtain rfl : s.env.schedule = rest := hs
    exact run_zero s
  | cons j js ih =>
    obtain ⟨hj, hrest⟩ := List.forall_mem_cons.1 hjs
    have hstep := (step_scheduled s _ _ hs).trans (agentStep_readLimb i j _ hp hn hj)
    have hrun := (run_succ s _ js.length hstep).trans (ih _ hp hn hrest rfl)
    rw [List.map_cons, List.reverse_cons, List.append_assoc]
    exact hrun

end Sys2Proof.Machine

namespace Sys2Proof.Proofs

open Sys2Proof.Machine

/-- Settles O55: the writes copy every limb of v, and a value is determined by its limbs. -/
theorem loadingEveryLimbLoadsTheValue : Obligations.LoadingEveryLimbLoadsTheValue := by
  intro s i v rest hp hn hx hv hs
  have hrun := run_writeLimbs i v rest (List.range s.limbs) s hp hn (fun _ => List.mem_range.1) hs
  rwa [List.length_range, copyLimbs_range s.limbs _ v hx hv] at hrun

/-- Settles O56: the words are the limbs of x[i], which add up to it. -/
theorem readingEveryLimbReturnsTheValue : Obligations.ReadingEveryLimbReturnsTheValue := by
  intro s i rest hp hn hx hs
  have hrun := run_readLimbs i rest (List.range s.limbs) s hp hn (fun _ => List.mem_range.1) hs
  rw [List.length_range] at hrun
  exact ⟨_, by simp, joinLimbs_limbs s.limbs _ hx, hrun⟩

end Sys2Proof.Proofs
end

section

/-! SUPPORT. The legal words, said of their fields: a word decodes to the command whose fields it has, and to no other. -/

namespace Sys2Proof

/-- A 3-bit field is the number of the register it names (R92). -/
@[simp] theorem ofFin_regOf (b : BitVec 3) : BitVec.ofFin (regOf b) = b := rfl

/-- A mask of ones keeps a field. -/
theorem and_of_eq_allOnes {n : Nat} (x m : BitVec n) (h : m = BitVec.allOnes n) : x &&& m = x := by
  rw [h, BitVec.and_allOnes]

/-- A row answers a command exactly when its mask and match accept the word, and then answers its own (R93). -/
theorem row_eq_ok_iff (w mask mtch : Word) (c i : Instr) :
    (if matchesRow w mask mtch = true then Except.ok c else .error Illegal.mustBeZero) = .ok i
      ↔ matchesRow w mask mtch = true ∧ c = i := by
  split <;> simp [*]

/-- A row never rejects a word as an unknown operation code (R100). -/
theorem row_ne_unknownOp (w mask mtch : Word) (c : Instr) :
    (if matchesRow w mask mtch = true then Except.ok c else .error Illegal.mustBeZero) ≠ .error .unknownOp := by
  split <;> simp

/-- A word that decodes to a command has the fields of that command (R93, R99): the mask of its row keeps the operation code and
every bit that must be zero, and the match fixes them. -/
theorem splitWord_of_decode (w : Word) (i : Instr) (h : decode w = .ok i) : splitWord w = i.fields := by
  dsimp only [decode] at h
  split at h
  case h_6 => cases h
  all_goals
    obtain ⟨hrow, rfl⟩ := (row_eq_ok_iff ..).1 h
    rw [matchesRow_iff, splitWord_and] at hrow
    simpa [splitWord, and_of_eq_allOnes, Instr.fields] using hrow

/-- Decoding reads a word as the command whose fields it has, and as no other (R93, R99). -/
theorem decode_eq_ok_iff (w : Word) (i : Instr) : decode w = .ok i ↔ splitWord w = i.fields := by
  refine ⟨splitWord_of_decode w i, fun h => ?_⟩
  obtain rfl : w = encode i := splitWord_injective _ _ (h.trans (splitWord_encode i).symm)
  exact decode_encode i

/-- The decoder rejects a word as an unknown operation code exactly when no row has its code (R93, R100). -/
theorem decode_eq_unknownOp_iff (w : Word) :
    decode w = .error .unknownOp ↔ (splitWord w).op = 0#8 ∨ 6 ≤ (splitWord w).op.toNat := by
  dsimp only [decode]
  split
  case h_6 n h1 h2 h3 h4 h5 =>
    simp only [imp_false] at h1 h2 h3 h4 h5
    exact iff_of_true rfl (by bv_omega)
  all_goals
    rename_i hop
    simp [row_ne_unknownOp, hop, ← BitVec.toNat_inj]

/-- The fields of a command are well-formed (R99). -/
theorem wellFormed_fields (i : Instr) : i.fields.wellFormed = true := by
  cases i <;> rfl

/-- Well-formed fields are the fields of a command: the operation code says of which, and the register fields name its operands
(R93, R99). -/
theorem wellFormed_iff_exists_fields (f : Fields) : f.wellFormed = true ↔ ∃ i : Instr, f = i.fields := by
  refine ⟨fun h => ?_, fun ⟨i, hi⟩ => hi ▸ wellFormed_fields i⟩
  rcases f with ⟨op, rd, z1, rs1, z2, rs2, z3, rs3, z4⟩
  simp only [Fields.wellFormed, Fields.opKnown, Fields.reservedZero, Bool.and_eq_true, Bool.or_eq_true, beq_iff_eq, and_assoc] at h
  obtain ⟨hop, rfl, rfl, rfl, rfl, hunused⟩ := h
  rcases hop with (((rfl | rfl) | rfl) | rfl) | rfl
  · obtain ⟨rfl, rfl, rfl⟩ : rd = 0 ∧ rs2 = 0 ∧ rs3 = 0 := by simpa [Fields.unusedZero, and_assoc] using hunused
    exact ⟨.ptest (regOf rs1), rfl⟩
  · obtain rfl : rs2 = 0 := by simpa [Fields.unusedZero] using hunused
    exact ⟨.modinv (regOf rd) (regOf rs1) (regOf rs3), rfl⟩
  · exact ⟨.modexp (regOf rd) (regOf rs1) (regOf rs2) (regOf rs3), rfl⟩
  · obtain rfl : rs2 = 0 := by simpa [Fields.unusedZero] using hunused
    exact ⟨.modred (regOf rd) (regOf rs1) (regOf rs3), rfl⟩
  · exact ⟨.modmul (regOf rd) (regOf rs1) (regOf rs2) (regOf rs3), rfl⟩

end Sys2Proof

namespace Sys2Proof.Proofs

/-- Settles O7: `decode_encode`, which needs no premise, since every command is well-formed. -/
theorem decodingAnEncodedCommandGivesItBack : Obligations.DecodingAnEncodedCommandGivesItBack :=
  fun i _ => decode_encode i

/-- Settles O8: both words have the fields of the command, and a word is its fields. -/
theorem aLegalWordIsTheEncodingOfItsCommand : Obligations.ALegalWordIsTheEncodingOfItsCommand := fun w i h =>
  splitWord_injective _ _ ((splitWord_encode i).trans ((decode_eq_ok_iff w i).1 h).symm)

/-- Settles O9: a word decodes to the command whose fields it has, and the well-formed fields are those of the commands. -/
theorem legalWordsAreThoseWithZeroInEveryMustBeZeroBit : Obligations.LegalWordsAreThoseWithZeroInEveryMustBeZeroBit :=
  fun w => ⟨(exists_congr (decode_eq_ok_iff w)).trans (wellFormed_iff_exists_fields _).symm, decode_eq_unknownOp_iff w⟩

/-- Settles O10, by running the decoder on each word. -/
theorem theExampleWordsDecodeAsTheSpecSays : Obligations.TheExampleWordsDecodeAsTheSpecSays := by
  unfold Obligations.TheExampleWordsDecodeAsTheSpecSays
  decide

end Sys2Proof.Proofs
end

section

/-! PROOFS, 40_primality: the arithmetic of a round (R129) and of the whole test as a function (R132, R138). -/

namespace Sys2Proof.Machine

open Sys2Proof.Safety

/-! ## A round in closed form (R129) -/

/-- Taking the remainder before a power of two changes nothing: the squarings of x are those of the power it is the remainder of. -/
theorem mod_pow_two_pow (a r n j : Nat) : (a ^ r % n) ^ 2 ^ j % n = a ^ (r * 2 ^ j) % n := by
  rw [← Nat.pow_mod, ← pow_mul]

/-- A further squaring is one squaring of the square. -/
theorem mulMod_self_pow (x n j : Nat) : mulMod x x n ^ 2 ^ j % n = x ^ 2 ^ (j + 1) % n := by
  rw [mulMod, redMod, ← sq, mod_pow_two_pow, ← pow_succ']

/-- The squarings pass exactly when one of them gives n - 1. Stopping at 1 loses none: from 1 every further square is 1. -/
theorem squarings_iff (n k x : Nat) (hn : 5 ≤ n) :
    squarings n k x = true ↔ ∃ j, j < k ∧ x ^ 2 ^ (j + 1) % n = n - 1 := by
  induction k generalizing x with
  | zero => simp [squarings]
  | succ k ih =>
    have hfirst : x ^ 2 ^ (0 + 1) % n = mulMod x x n := by rw [zero_add, pow_one, sq, mulMod, redMod]
    rw [Nat.exists_lt_succ_left, hfirst, squarings]
    by_cases h1 : mulMod x x n = 1
    · have hstays : ∀ j, x ^ 2 ^ (j + 1) % n = 1 := fun j => by
        rw [← mulMod_self_pow, h1, one_pow, Nat.mod_eq_of_lt (by omega)]
      have hne : 1 ≠ n - 1 := by omega
      simp [h1, hstays, hne]
    · by_cases hm : mulMod x x n = n - 1
      · exact iff_of_true (by rw [if_neg h1, if_pos hm]) (.inl hm)
      · rw [if_neg h1, if_neg hm, ih]
        simp only [mulMod_self_pow, hm, false_or]

/-- A round in terms of the powers of its witness (R129). -/
theorem roundPasses_iff (n r e a : Nat) (hn : 5 ≤ n) (he : 1 ≤ e) :
    roundPasses n r e a = true ↔ (a ^ r % n = 1 ∨ ∃ j, j < e ∧ a ^ (r * 2 ^ j) % n = n - 1) := by
  obtain ⟨k, rfl⟩ : ∃ k, e = k + 1 := ⟨e - 1, by omega⟩
  have hstart : roundPasses n r (k + 1) a = true
      ↔ (a ^ r % n = 1 ∨ a ^ r % n = n - 1) ∨ squarings n k (a ^ r % n) = true := by
    simp only [roundPasses, modExp_eq, Nat.add_sub_cancel]
    split <;> simp [*]
  simp only [hstart, squarings_iff n k _ hn, mod_pow_two_pow]
  rw [Nat.exists_lt_succ_left, pow_zero, mul_one, or_assoc]

/-! ## A prime passes every round (R138) -/

/-- Modulo a prime, 1 has no square roots but 1 and n - 1. -/
theorem mod_eq_one_or_of_sq (n y : Nat) (hp : n.Prime) (h : y ^ 2 % n = 1) : y % n = 1 ∨ y % n = n - 1 := by
  have : Fact n.Prime := ⟨hp⟩
  have h2 := hp.two_le
  have hlt : ∀ m, m < n → (y : ZMod n) = (m : ZMod n) → y % n = m := fun m hm hy => by
    rw [(ZMod.natCast_eq_natCast_iff' y m n).1 hy, Nat.mod_eq_of_lt hm]
  have hsq : (y : ZMod n) * y = 1 := by
    have := (ZMod.natCast_eq_natCast_iff' (y ^ 2) 1 n).2 (by rw [h, Nat.mod_eq_of_lt (by omega)])
    simpa [sq] using this
  rcases mul_self_eq_one_iff.1 hsq with h1 | h1
  · exact .inl (hlt 1 (by omega) (by simpa using h1))
  · exact .inr (hlt (n - 1) (by omega) (by simpa [Nat.cast_sub (by omega : 1 ≤ n)] using h1))

/-- From an exponent r * 2^e at which the power is 1, halving leads down to 1 at r or meets n - 1 on the way. -/
theorem power_meets_of_mod_eq_one (n r e a : Nat) (hp : n.Prime) (h : a ^ (r * 2 ^ e) % n = 1) :
    a ^ r % n = 1 ∨ ∃ j, j < e ∧ a ^ (r * 2 ^ j) % n = n - 1 := by
  induction e with
  | zero => exact .inl (by simpa using h)
  | succ e ih =>
    rw [pow_succ, ← mul_assoc, pow_mul] at h
    rcases mod_eq_one_or_of_sq n _ hp h with h1 | hm
    · exact (ih h1).imp_right fun ⟨j, hj, hjm⟩ => ⟨j, by omega, hjm⟩
    · exact .inr ⟨e, by omega, hm⟩

/-- Fermat's little theorem on the range of the witnesses. -/
theorem pow_pred_mod_eq_one (n a : Nat) (hp : n.Prime) (h2 : 2 ≤ a) (ha : a ≤ n - 2) : a ^ (n - 1) % n = 1 := by
  have hcop : n.Coprime a := Nat.coprime_of_lt_prime (by omega) (by omega) hp
  have hpow := Nat.ModEq.pow_totient hcop.symm
  rwa [Nat.totient_prime hp, Nat.ModEq, Nat.mod_eq_of_lt hp.one_lt] at hpow

/-- A prime passes every round (R138). -/
theorem roundPasses_of_prime (n r e a : Nat) (hp : n.Prime) (h5 : 5 ≤ n) (hfac : n - 1 = r * 2 ^ e) (hr : r % 2 = 1)
    (h2 : 2 ≤ a) (ha : a ≤ n - 2) : roundPasses n r e a = true := by
  have hodd : n % 2 = 1 := hp.eq_two_or_odd.resolve_left (by omega)
  have he : 1 ≤ e := Nat.one_le_iff_ne_zero.2 fun h0 => by
    rw [h0, pow_zero, mul_one] at hfac
    omega
  rw [roundPasses_iff n r e a h5 he]
  exact power_meets_of_mod_eq_one n r e a hp (hfac ▸ pow_pred_mod_eq_one n a hp h2 ha)

end Sys2Proof.Machine

namespace Sys2Proof.Safety

open Sys2Proof.Machine

/-! ## The test as a function (R132) -/

section rounds
variable (n r e k i : Nat) (a : Nat → Nat)

theorem testRounds_of_rangeError (h : a (i + 1) < 2 ∨ a (i + 1) > n - 2) :
    testRounds n r e a (k + 1) i = (.rngrange, i + 1) := by
  rw [testRounds, if_pos h]

theorem testRounds_of_failing (h : 2 ≤ a (i + 1) ∧ a (i + 1) ≤ n - 2) (hf : roundPasses n r e (a (i + 1)) = false) :
    testRounds n r e a (k + 1) i = (.composite, i + 1) := by
  rw [testRounds, if_neg (by omega), if_pos hf]

theorem testRounds_of_passing (h : 2 ≤ a (i + 1) ∧ a (i + 1) ≤ n - 2) (hp : roundPasses n r e (a (i + 1)) = true) :
    testRounds n r e a (k + 1) i = testRounds n r e a k (i + 1) := by
  rw [testRounds, if_neg (by omega), if_neg (by simp [hp])]

end rounds

/-- The three kinds of numbers that the first step tells apart (R123, R124, R125). -/
theorem number_cases (n : Nat) : (n = 2 ∨ n = 3) ∨ (n ≠ 2 ∧ (n < 2 ∨ n % 2 = 0)) ∨ (5 ≤ n ∧ n % 2 = 1) := by
  omega

/-- The numbers that get the verdict composite without a draw are no primes (R123). -/
theorem not_prime_of_small_or_even (n : Nat) (h2 : n ≠ 2) (h : n < 2 ∨ n % 2 = 0) : ¬ n.Prime := fun hp => by
  have hge := hp.two_le
  have hodd := hp.eq_two_or_odd
  omega

section numbers
variable (n k : Nat) (a : Nat → Nat)

theorem primalityTest_of_two_or_three (h : n = 2 ∨ n = 3) : primalityTest n k a = (.prime, 0) := by
  rcases h with rfl | rfl <;> simp [primalityTest]

theorem primalityTest_of_small_or_even (h2 : n ≠ 2) (h : n < 2 ∨ n % 2 = 0) : primalityTest n k a = (.composite, 0) := by
  rw [primalityTest, if_neg h2, if_pos h]

theorem primalityTest_of_odd (h5 : 5 ≤ n) (hodd : n % 2 = 1) :
    primalityTest n k a = testRounds n (factor (n - 1)).1 (factor (n - 1)).2 a k 0 := by
  rw [primalityTest, if_neg (by omega), if_neg (by omega), if_neg (by omega)]

end numbers

/-- If the rounds answer composite, a round with a witness in range has failed. -/
theorem exists_failing_of_composite (n r e k i : Nat) (a : Nat → Nat) (h : (testRounds n r e a k i).1 = .composite) :
    ∃ b, (2 ≤ b ∧ b ≤ n - 2) ∧ roundPasses n r e b = false := by
  induction k generalizing i with
  | zero => simp [testRounds] at h
  | succ k ih =>
    by_cases hr : 2 ≤ a (i + 1) ∧ a (i + 1) ≤ n - 2
    · cases hp : roundPasses n r e (a (i + 1)) with
      | false => exact ⟨_, hr, hp⟩
      | true => exact ih (i + 1) (by rwa [testRounds_of_passing n r e k i a hr hp] at h)
    · rw [testRounds_of_rangeError n r e k i a (by omega)] at h
      simp at h

/-- If every witness in range passes, in-range answers give the outcome prime. -/
theorem testRounds_eq_prime (n r e k i : Nat) (a : Nat → Nat)
    (hpass : ∀ b, 2 ≤ b ∧ b ≤ n - 2 → roundPasses n r e b = true)
    (ha : ∀ j, i < j → j ≤ i + k → 2 ≤ a j ∧ a j ≤ n - 2) : (testRounds n r e a k i).1 = .prime := by
  induction k generalizing i with
  | zero => rfl
  | succ k ih =>
    have hr := ha (i + 1) (by omega) (by omega)
    rw [testRounds_of_passing n r e k i a hr (hpass _ hr)]
    exact ih (i + 1) fun j h1 h2 => ha j (by omega) (by omega)

/-- A prime passes every round of its own test, whose r and s are those of the factoring (R125, R138). -/
theorem roundPasses_factor_of_prime (n b : Nat) (hp : n.Prime) (h5 : 5 ≤ n) (hb : 2 ≤ b ∧ b ≤ n - 2) :
    roundPasses n (factor (n - 1)).1 (factor (n - 1)).2 b = true := by
  obtain ⟨hr, hfac⟩ := factor_spec (n - 1) (by omega)
  exact roundPasses_of_prime n _ _ b hp h5 hfac hr hb.1 hb.2

end Sys2Proof.Safety

namespace Sys2Proof.Proofs

open Sys2Proof.Machine Sys2Proof.Safety

/-- Settles O40, by induction on the squarings. -/
theorem aRoundPassesExactlyOnItsClosedForm : Obligations.ARoundPassesExactlyOnItsClosedForm :=
  roundPasses_iff

/-- Settles O41: by Fermat's little theorem the last power is 1, and modulo a prime 1 has no other square roots than 1 and n - 1. -/
theorem aPrimePassesEveryRound : Obligations.APrimePassesEveryRound :=
  roundPasses_of_prime

/-- Settles O42: a verdict composite needs a small or even number or a failing round, and a prime has none. -/
theorem compositeVerdictsAreSoundAndPrimesPass : Obligations.CompositeVerdictsAreSoundAndPrimesPass := by
  refine ⟨fun n k a hc hp => ?_, fun n k a hp ha => ?_⟩
  · rcases number_cases n with h | ⟨h2, h⟩ | ⟨h5, hodd⟩
    · rw [primalityTest_of_two_or_three n k a h] at hc
      simp at hc
    · exact not_prime_of_small_or_even n h2 h hp
    · rw [primalityTest_of_odd n k a h5 hodd] at hc
      obtain ⟨b, hb, hf⟩ := exists_failing_of_composite _ _ _ _ _ _ hc
      simp [roundPasses_factor_of_prime n b hp h5 hb] at hf
  · rcases number_cases n with h | ⟨h2, h⟩ | ⟨h5, hodd⟩
    · rw [primalityTest_of_two_or_three n k a h]
    · exact absurd hp (not_prime_of_small_or_even n h2 h)
    · rw [primalityTest_of_odd n k a h5 hodd]
      exact testRounds_eq_prime _ _ _ _ _ _ (fun b hb => roundPasses_factor_of_prime n b hp h5 hb)
        fun j h0 hj => ha h5 j h0 (by omega)

end Sys2Proof.Proofs
end

section

/-! PROOFS, 40_primality: the first step (R122 to R125), the response step (R127 to R131), and that the steps of a PTEST compute the
test as a function (R132). -/

namespace Sys2Proof.Machine

open Sys2Proof.Safety

/-! ## The first step -/

theorem exec_ptest (rs1 : Reg) (s : State) : exec (.ptest rs1) s = .next (firstStep (readReg s rs1) s) := rfl

theorem firstStep_of_two_or_three (n : Nat) (s : State) (h : n = 2 ∨ n = 3) : firstStep n s = complete true s := by
  rcases h with rfl | rfl <;> simp [firstStep]

theorem firstStep_of_small_or_even (n : Nat) (s : State) (h2 : n ≠ 2) (h : n < 2 ∨ n % 2 = 0) :
    firstStep n s = complete false s := by
  rw [firstStep, if_neg h2, if_pos h]

theorem firstStep_of_odd (n : Nat) (s : State) (h5 : 5 ≤ n) (hodd : n % 2 = 1) : firstStep n s = startRounds n s := by
  rw [firstStep, if_neg (by omega), if_neg (by omega), if_neg (by omega)]

/-- The first step draws nothing (R122). -/
theorem firstStep_rndcnt (n : Nat) (s : State) : (firstStep n s).rndcnt = s.rndcnt := by rw [firstStep_frame]

/-- What the first step and a passing round come to: the verdict prime if KLAT rounds have passed, else the request for another one
(R125, R131). -/
def nextRound (s : State) : State := if s.ptI = s.klat then complete true s else awaitDraw s

theorem nextRound_of_all_passed (s : State) (h : s.ptI = s.klat) : nextRound s = complete true s := if_pos h

theorem nextRound_of_round_left (s : State) (h : s.ptI ≠ s.klat) : nextRound s = awaitDraw s := if_neg h

theorem startRounds_eq (n : Nat) (s : State) :
    startRounds n s = nextRound (latchTest n (factor (n - 1)).1 (factor (n - 1)).2 s) := by
  simp only [startRounds, nextRound, latchTest_ptI, latchTest_klat, eq_comm]

theorem endRound_eq (s : State) : endRound s = nextRound (passRound s) := rfl

/-! ## The response step -/

/-- An answer to a standing request is taken (R48). -/
theorem agentStep_draw (a : Nat) (s : State) (h : s.phase = .rngWait) : agentStep (.draw a) s = .next (takeAnswer a s) := by
  simp only [agentStep, respond, h]

section response
variable (a : Nat) (s : State)

theorem takeAnswer_of_rangeError (h : a < 2 ∨ a > s.ptN - 2) :
    takeAnswer a s = raiseError .rngRange (countDraw s) :=
  if_pos h

theorem takeAnswer_of_failing (h : 2 ≤ a ∧ a ≤ s.ptN - 2) (hf : roundPasses s.ptN s.ptR s.ptS a = false) :
    takeAnswer a s = complete false (countDraw s) := by
  rw [takeAnswer, if_neg (by omega), if_neg (by simp [hf])]

theorem takeAnswer_of_passing (h : 2 ≤ a ∧ a ≤ s.ptN - 2) (hp : roundPasses s.ptN s.ptR s.ptS a = true) :
    takeAnswer a s = nextRound (passRound (countDraw s)) := by
  rw [takeAnswer, if_neg (by omega), if_pos hp, endRound_eq]

end response

/-- A block that waits for an answer goes on waiting. -/
theorem awaitDraw_of_rngWait (s : State) (h : s.phase = .rngWait) : awaitDraw s = s := by
  rw [awaitDraw, ← h]

/-- While a block waits the request (2, PT_N - 2) stands (R126). -/
theorem request_of_rngWait (s : State) (h : s.phase = .rngWait) : request s = some (2, s.ptN - 2) := by
  simp only [request, h]

/-! ## The run of a PTEST -/

/-- A run of j + k steps is a run of k steps from where j steps lead. -/
theorem run_add (j k : Nat) (s t : State) (h : Host.Core.run core j s = .next t) :
    Host.Core.run core (j + k) s = Host.Core.run core k t := by
  induction j generalizing s with
  | zero =>
    obtain rfl : s = t := Host.Outcome.next.inj h
    rw [Nat.zero_add]
  | succ j ih =>
    obtain ⟨u, hu⟩ := agentStep_next (nextEvent s) (popEvent s)
    rw [run_succ s u j hu] at h
    rw [Nat.add_right_comm, run_succ s u (j + k) hu, ih u h]

/-- The completion that an outcome of the test stands for (R132). -/
def endTest : TestOutcome → State → State
  | .prime => complete true
  | .composite => complete false
  | .rngrange => raiseError .rngRange

/-- The flags after the test, read off its outcome (R133): it ends idle and done, and touches neither the registers nor the count. -/
theorem endTest_flags (o : TestOutcome) (s : State) :
    (endTest o s).phase = .idle ∧ (endTest o s).done = true ∧ (endTest o s).x = s.x
      ∧ ((endTest o s).prime = true ↔ o = .prime) ∧ ((endTest o s).err = true ↔ o = .rngrange)
      ∧ (endTest o s).errcode = (if o = .rngrange then 4 else 0) ∧ (endTest o s).rndcnt = s.rndcnt := by
  cases o <;> simp [endTest, causeCode]

/-- The run from `s` ends as the pair of outcome and count says, one step for each draw still to be counted, with the general registers
of `s`. -/
def EndsAs (s : State) (o : TestOutcome × Nat) : Prop :=
  ∃ (d : Nat) (u : State), Host.Core.run core d s = .next (endTest o.1 u) ∧ o.2 = s.rndcnt.toNat + d ∧ u.x = s.x
    ∧ u.rndcnt.toNat = o.2

/-- A completion is the end. -/
theorem endsAs_endTest (o : TestOutcome × Nat) (u : State) (h : u.rndcnt.toNat = o.2) : EndsAs (endTest o.1 u) o := by
  obtain ⟨-, -, hx, -, -, -, hcount⟩ := endTest_flags o.1 u
  exact ⟨0, u, run_zero _, by rw [hcount, h, Nat.add_zero], hx.symm, h⟩

/-- The step that takes a scheduled answer counts it and leaves the registers, so what follows it ends as the whole does. -/
theorem endsAs_of_draw (a : Nat) (rest : List Event) (s : State) (o : TestOutcome × Nat) (hp : s.phase = .rngWait)
    (hs : s.env.schedule = .draw a :: rest) (hcount : (s.rndcnt + 1).toNat = s.rndcnt.toNat + 1)
    (h : EndsAs (takeAnswer a { s with env := { s.env with schedule := rest } }) o) : EndsAs s o := by
  obtain ⟨d, u, hrun, hd, hx, hu⟩ := h
  have hstep := (step_scheduled s _ rest hs).trans (agentStep_draw a _ hp)
  rw [takeAnswer_rndcnt, hcount] at hd
  rw [takeAnswer_x] at hx
  exact ⟨d + 1, u, (run_succ s _ d hstep).trans hrun, by omega, hx, hu⟩

/-- The answers on offer after the first `i`: the next one, and those after it. -/
theorem answers_succ (k i : Nat) (a : Nat → Nat) :
    (answers (k + 1) fun j => a (i + j)) = .draw (a (i + 1)) :: answers k fun j => a (i + 1 + j) := by
  simp [answers, List.range_succ_eq_map, Nat.add_assoc, Nat.add_comm 1]

/-- A counter that is below a word's value does not wrap around when it is advanced. -/
theorem toNat_add_one_of_lt (c w : Word) (h : c.toNat < w.toNat) : (c + 1).toNat = c.toNat + 1 := by
  bv_omega

/-- The response step does what the function does with the next answer (R127, R132), if after a passing round the rest does. -/
theorem endsAs_takeAnswer (a : Nat → Nat) (k i : Nat) (s : State) (hcount : (s.rndcnt + 1).toNat = i + 1)
    (hrest : EndsAs (nextRound (passRound (countDraw s))) (testRounds s.ptN s.ptR s.ptS a k (i + 1))) :
    EndsAs (takeAnswer (a (i + 1)) s) (testRounds s.ptN s.ptR s.ptS a (k + 1) i) := by
  by_cases hr : 2 ≤ a (i + 1) ∧ a (i + 1) ≤ s.ptN - 2
  · cases hpass : roundPasses s.ptN s.ptR s.ptS (a (i + 1)) with
    | false =>
      rw [testRounds_of_failing _ _ _ _ _ _ hr hpass, takeAnswer_of_failing _ s hr hpass]
      exact endsAs_endTest (.composite, i + 1) (countDraw s) hcount
    | true =>
      rw [testRounds_of_passing _ _ _ _ _ _ hr hpass, takeAnswer_of_passing _ s hr hpass]
      exact hrest
  · have hout : a (i + 1) < 2 ∨ a (i + 1) > s.ptN - 2 := by omega
    rw [testRounds_of_rangeError _ _ _ _ _ _ hout, takeAnswer_of_rangeError _ s hout]
    exact endsAs_endTest (.rngrange, i + 1) (countDraw s) hcount

/-- With `i` rounds passed and `k` still to hold, the steps compute the rounds of the function (R132): PT_I and RNDCNT count along with
its `i`. -/
theorem endsAs_nextRound (a : Nat → Nat) (k i : Nat) (s : State) (hcount : s.rndcnt.toNat = i) (hpassed : s.ptI.toNat = i)
    (hklat : s.klat.toNat = i + k) (hs : s.env.schedule = answers k fun j => a (i + j)) :
    EndsAs (nextRound s) (testRounds s.ptN s.ptR s.ptS a k i) := by
  induction k generalizing i s with
  | zero =>
    rw [nextRound_of_all_passed s (BitVec.eq_of_toNat_eq (by omega))]
    exact endsAs_endTest (.prime, i) s hcount
  | succ k ih =>
    subst hcount
    have hleft : s.ptI ≠ s.klat := fun h => by
      rw [h] at hpassed
      omega
    have hcounted := toNat_add_one_of_lt s.rndcnt s.klat (by omega)
    have hround := toNat_add_one_of_lt s.ptI s.klat (by omega)
    rw [hpassed] at hround
    rw [answers_succ] at hs
    rw [nextRound_of_round_left s hleft]
    exact endsAs_of_draw _ _ (awaitDraw s) _ rfl hs hcounted
      (endsAs_takeAnswer a k _ _ hcounted
        (ih _ (passRound (countDraw _)) hcounted hround (hklat.trans (by omega)) rfl))

/-- From the first step on, with KLAT answers on offer, the test ends as the function says (R132). -/
theorem endsAs_firstStep (n : Nat) (a : Nat → Nat) (s : State) (hcount : s.rndcnt = 0)
    (hs : s.env.schedule = answers s.klat.toNat a) : EndsAs (firstStep n s) (primalityTest n s.klat.toNat a) := by
  have hzero : s.rndcnt.toNat = 0 := by rw [hcount]; rfl
  rcases number_cases n with h | ⟨h2, h⟩ | ⟨h5, hodd⟩
  · rw [primalityTest_of_two_or_three n _ a h, firstStep_of_two_or_three n s h]
    exact endsAs_endTest (.prime, 0) s hzero
  · rw [primalityTest_of_small_or_even n _ a h2 h, firstStep_of_small_or_even n s h2 h]
    exact endsAs_endTest (.composite, 0) s hzero
  · rw [primalityTest_of_odd n _ a h5 hodd, firstStep_of_odd n s h5 hodd, startRounds_eq]
    exact endsAs_nextRound a s.klat.toNat 0 (latchTest n (factor (n - 1)).1 (factor (n - 1)).2 s) hzero rfl
      (Nat.zero_add _).symm (by simpa only [Nat.zero_add, latchTest_env] using hs)

end Sys2Proof.Machine

namespace Sys2Proof.Proofs

open Sys2Proof.Machine Sys2Proof.Safety

/-- Settles O29: the frame of the first step. -/
theorem ptestChangesNoGeneralRegister : Obligations.PtestChangesNoGeneralRegister := by
  intro rs1 s t h
  obtain rfl : firstStep (readReg s rs1) s = t := Host.Outcome.next.inj h
  exact ⟨readReg_congr s _ (firstStep_x _ s), firstStep_frame _ s⟩

/-- Settles O35: 2 and 3 complete with the verdict true, the small and the other even numbers with false. -/
theorem trivialNumbersAreDecidedWithoutDraws : Obligations.TrivialNumbersAreDecidedWithoutDraws := by
  intro rs1 s
  rw [exec_ptest]
  exact ⟨fun h => by rw [firstStep_of_two_or_three _ s h]; rfl, fun h2 h => by rw [firstStep_of_small_or_even _ s h2 h]; rfl⟩

/-- Settles O36: the factoring of n - 1 is the pair asked for. -/
theorem firstStepFactorsAndPlacesTheRequest : Obligations.FirstStepFactorsAndPlacesTheRequest := by
  intro rs1 s h5 hodd hn
  obtain ⟨hr, hfac⟩ := factor_spec (readReg s rs1 - 1) (by omega)
  obtain ⟨-, he, heW⟩ := factor_bounds (readReg s rs1) s.width h5 hodd hn
  rw [exec_ptest, firstStep_of_odd _ s h5 hodd]
  rw [startRounds_eq]
  refine ⟨_, _, hr, by omega, he, heW, hfac, fun hk => ⟨?_, rfl⟩, fun hk => ?_⟩
  · rw [nextRound_of_round_left _ (Ne.symm hk)]
    rfl
  · rw [nextRound_of_all_passed _ (Eq.symm hk)]
    rfl

/-- Settles O37: the answer is counted before the range check. -/
theorem anAnswerOutOfRangeRaisesRngRange : Obligations.AnAnswerOutOfRangeRaisesRngRange := by
  intro a s hp h
  rw [agentStep_draw a s hp, takeAnswer_of_rangeError a s h]
  rfl

/-- Settles O38: the verdict composite, with RNDCNT one more than PT_I. -/
theorem aFailingRoundEndsWithCompositeVerdict : Obligations.AFailingRoundEndsWithCompositeVerdict := by
  intro a s hp h2 ha hcount hf
  refine ⟨?_, rfl⟩
  have hcounted : countDraw s = { s with rndcnt := s.ptI + 1 } := by rw [countDraw, hcount]
  rw [agentStep_draw a s hp, takeAnswer_of_failing a s ⟨h2, ha⟩ hf, hcounted]
  rfl

/-- Settles O39: the KLAT-th passing round completes, and any other leaves PHASE as it was. -/
theorem aPassingRoundAdvancesTheTest : Obligations.APassingRoundAdvancesTheTest := by
  intro a s hp h2 ha hpass
  rw [agentStep_draw a s hp, takeAnswer_of_passing a s ⟨h2, ha⟩ hpass]
  refine ⟨fun hlast => ?_, fun hmore => ⟨?_, request_of_rngWait _ hp⟩⟩
  · rw [nextRound_of_all_passed _ hlast]
    rfl
  · rw [nextRound_of_round_left _ hmore, awaitDraw_of_rngWait (passRound (countDraw s)) hp]
    rfl

/-- Settles O43: acceptance and the sequencer's step lead to the first step of the test, with KLAT = ROUNDS and RNDCNT = 0; from there
one answer is taken for each draw of the function. -/
theorem theStepsOfPtestComputeTheTestFunction : Obligations.TheStepsOfPtestComputeTheTestFunction := by
  intro s rs1 a hp hs
  have htwo := (anIssuedCommandIsTheOneThatRuns s (.ptest rs1) _ hp hs).trans (exec_ptest rs1 _)
  obtain ⟨d, u, hrun, hd, hx, hcount⟩ := endsAs_firstStep (readReg s rs1) a
    { s with
      cmd := encode (.ptest rs1), klat := s.rounds, rndcnt := 0, done := false, err := false, errcode := 0, prime := false,
      phase := .exec, env := { s.env with schedule := answers s.rounds.toNat a } } rfl rfl
  rw [firstStep_rndcnt] at hd
  obtain rfl : _ = d := hd.trans (Nat.zero_add d)
  rw [firstStep_x] at hx
  obtain ⟨hphase, hdone, hregs, hprime, herr, hcode, hcnt⟩ := endTest_flags (primalityTest (readReg s rs1) s.rounds.toNat a).1 u
  exact ⟨_, (run_add 2 _ s _ htwo).trans hrun, hphase, hdone, hregs.trans hx, hprime, herr, hcode, hcnt ▸ hcount⟩

/-- The block with 91 in x[1] and one round to hold, to which a PTEST of x[1] and the single answer 9 are scheduled (R135 item 8). -/
def liarRun : State :=
  { State.resetWith 2 with
    x := #v[0, 91, 0, 0, 0, 0, 0, 0], rounds := 1,
    env := { schedule := [scriptCommand (.ptest 1), .sequencer, .draw 9], reads := [] } }

/-- 9 is a liar for 91: its round passes (R135 item 8). -/
theorem primalityTest_liar : primalityTest 91 1 (fun _ => 9) = (.prime, 1) := by
  decide

/-- Settles O44: on 91 = 7 * 13 the function answers prime for the draw 9, and so does the run. -/
theorem aPrimeVerdictMayBeWrong : Obligations.APrimeVerdictMayBeWrong := by
  obtain ⟨t, hrun, hidle, -, -, hprime, -⟩ := theStepsOfPtestComputeTheTestFunction liarRun 1 (fun _ => 9) rfl rfl
  have hpt : primalityTest (readReg liarRun 1) liarRun.rounds.toNat (fun _ => 9) = (.prime, 1) := primalityTest_liar
  rw [hpt] at hrun hprime
  exact ⟨liarRun, t, rfl, rfl, rfl, rfl, hrun, hidle, hprime.2 rfl, by norm_num⟩

end Sys2Proof.Proofs
end

section

/-! PROOFS, 41_modinv: the inverse that `ExtEuclid` returns is the only one (R155), when there is none (R156), and that the outcome
depends on e only through e mod m (R158). -/

namespace Sys2Proof.Machine

/-! ## The inverse modulo m -/

/-- At most one d in [0, m) has a given product with e modulo m, when e is coprime to m. -/
theorem eq_of_mul_mod_eq (d d' e m : Nat) (hg : Nat.gcd e m = 1) (hd : d < m) (hd' : d' < m) (h : d * e % m = d' * e % m) :
    d = d' :=
  (Nat.ModEq.cancel_right_of_coprime (Nat.gcd_comm m e ▸ hg) h).eq_of_lt_of_lt hd hd'

/-- For coprime operands `ExtEuclid` returns 1 and an inverse of e in [0, m) (R155). -/
theorem extEuclid_of_coprime (e m : Nat) (hm : 1 ≤ m) (hg : Nat.gcd e m = 1) :
    (extEuclid e m).1 = 1 ∧ (extEuclid e m).2 < m ∧ (extEuclid e m).2 * e % m = 1 % m :=
  hg ▸ extEuclid_spec e m hm

/-- Congruent coprime operands have the same inverse (R158). -/
theorem extEuclid_inverse_of_mod_eq (e e' m : Nat) (hm : 1 ≤ m) (hg : Nat.gcd e m = 1) (h : e % m = e' % m) :
    (extEuclid e m).2 = (extEuclid e' m).2 := by
  have hg' : Nat.gcd e' m = 1 := (Nat.ModEq.gcd_eq h).symm.trans hg
  obtain ⟨-, hlt, hinv⟩ := extEuclid_of_coprime e m hm hg
  obtain ⟨-, hlt', hinv'⟩ := extEuclid_of_coprime e' m hm hg'
  refine eq_of_mul_mod_eq _ _ e m hg hlt hlt' ?_
  calc (extEuclid e m).2 * e % m
      = 1 % m := hinv
    _ = (extEuclid e' m).2 * e' % m := hinv'.symm
    _ = (extEuclid e' m).2 * e % m := Nat.ModEq.mul_left _ h.symm

/-! ## The three ends of MODINV (R152) -/

section modinv
variable (rd rs1 rs3 : Reg) (s : State)

theorem exec_modinv_of_zero (h : readReg s rs3 = 0) :
    exec (.modinv rd rs1 rs3) s = .next (raiseError .zeroModulus s) := by
  rw [exec, execModinv, if_pos h]

theorem exec_modinv_of_pos (hm : 1 ≤ readReg s rs3) :
    exec (.modinv rd rs1 rs3) s = .next (finishInverse rd (extEuclid (readReg s rs1) (readReg s rs3)) s) := by
  rw [exec, execModinv, if_neg (Nat.pos_iff_ne_zero.mp hm)]

theorem exec_modinv_of_not_coprime (hm : 1 ≤ readReg s rs3) (hg : Nat.gcd (readReg s rs1) (readReg s rs3) ≠ 1) :
    exec (.modinv rd rs1 rs3) s = .next (raiseError .noModularInverse s) := by
  have hne : (extEuclid (readReg s rs1) (readReg s rs3)).1 ≠ 1 := (extEuclid_spec _ _ hm).1.trans_ne hg
  rw [exec_modinv_of_pos rd rs1 rs3 s hm, finishInverse, if_pos hne]

theorem exec_modinv_of_coprime (hm : 1 ≤ readReg s rs3) (hg : Nat.gcd (readReg s rs1) (readReg s rs3) = 1) :
    exec (.modinv rd rs1 rs3) s = .next (writeResult rd (extEuclid (readReg s rs1) (readReg s rs3)).2 s) := by
  have hone : (extEuclid (readReg s rs1) (readReg s rs3)).1 = 1 := (extEuclid_of_coprime _ _ hm hg).1
  rw [exec_modinv_of_pos rd rs1 rs3 s hm, finishInverse, if_neg (not_not.mpr hone)]

end modinv

end Sys2Proof.Machine

namespace Sys2Proof.Proofs

open Sys2Proof.Machine

/-- Settles O22: the coefficient of `ExtEuclid` is an inverse in [0, m), and a coprime e cancels, so it is the only one. -/
theorem modinvWritesTheUniqueInverse : Obligations.ModinvWritesTheUniqueInverse := by
  intro rd rs1 rs3 s hm hg
  obtain ⟨hone, hlt, hinv⟩ := extEuclid_of_coprime _ _ hm hg
  exact ⟨_, hlt, hinv, fun d' hd' h => eq_of_mul_mod_eq _ _ _ _ hg hd' hlt (h.trans hinv.symm), Prod.ext hone rfl,
    exec_modinv_of_coprime rd rs1 rs3 s hm hg⟩

/-- Settles O23: of the three ends of MODINV the other two record the codes 2 and 0. -/
theorem modinvRaisesNoModularInverseExactlyWithoutCoprimality :
    Obligations.ModinvRaisesNoModularInverseExactlyWithoutCoprimality := by
  refine fun rd rs1 rs3 s => ⟨exec_modinv_of_not_coprime rd rs1 rs3 s, fun t ht hcode => ?_⟩
  rcases Nat.eq_zero_or_pos (readReg s rs3) with hm | hm
  · cases (exec_modinv_of_zero rd rs1 rs3 s hm).symm.trans ht
    exact absurd (show causeCode .zeroModulus = 3 from hcode) (by decide)
  · refine ⟨hm, fun hg => ?_⟩
    cases (exec_modinv_of_coprime rd rs1 rs3 s hm hg).symm.trans ht
    exact absurd (show (0 : BitVec 8) = 3 from hcode) (by decide)

/-- Settles O24: both states come to the same end of MODINV, and where that is a result, it is the same inverse. -/
theorem modinvDependsOnTheResidueOnly : Obligations.ModinvDependsOnTheResidueOnly := by
  intro rd rs1 rs3 s t s' t' hmod hres hrd hs ht
  rw [← hmod] at hres
  rcases Nat.eq_zero_or_pos (readReg s rs3) with hm | hm
  · cases (exec_modinv_of_zero rd rs1 rs3 s hm).symm.trans hs
    cases (exec_modinv_of_zero rd rs1 rs3 t (hmod ▸ hm)).symm.trans ht
    exact ⟨rfl, hrd⟩
  have hgcd : Nat.gcd (readReg s rs1) (readReg s rs3) = Nat.gcd (readReg t rs1) (readReg t rs3) :=
    hmod ▸ Nat.ModEq.gcd_eq hres
  by_cases hg : Nat.gcd (readReg s rs1) (readReg s rs3) = 1
  · cases (exec_modinv_of_coprime rd rs1 rs3 s hm hg).symm.trans hs
    cases (exec_modinv_of_coprime rd rs1 rs3 t (hmod ▸ hm) (hgcd ▸ hg)).symm.trans ht
    refine ⟨rfl, ?_⟩
    rw [readReg_writeResult_same, readReg_writeResult_same, ← hmod]
    exact extEuclid_inverse_of_mod_eq _ _ _ hm hg hres
  · cases (exec_modinv_of_not_coprime rd rs1 rs3 s hm hg).symm.trans hs
    cases (exec_modinv_of_not_coprime rd rs1 rs3 t (hmod ▸ hm) (hgcd ▸ hg)).symm.trans ht
    exact ⟨rfl, hrd⟩

end Sys2Proof.Proofs
end

section
/-! PROOFS, 42_modexp: MODEXP writes the remainder of the exact power (R167), and two MODEXP commands with inverse exponents give the
message back (R174). -/

namespace Sys2Proof.Machine

/-! ## The two ends of MODEXP -/

section modexp

variable (rd rs1 rs2 rs3 : Reg) (s : State)

theorem exec_modexp_of_zero (h : readReg s rs3 = 0) :
    exec (.modexp rd rs1 rs2 rs3) s = .next (raiseError .zeroModulus s) := by
  rw [exec, execModexp, if_pos h]

theorem exec_modexp_of_ne_zero (h : readReg s rs3 ≠ 0) :
    exec (.modexp rd rs1 rs2 rs3) s = .next (writeResult rd (readReg s rs1 ^ readReg s rs2 % readReg s rs3) s) := by
  rw [exec, execModexp, if_neg h, modExp_eq]

end modexp

/-- Two MODEXP commands, the second on the first one's result with the same modulus, write the power with the product of the
exponents. The first must leave the second's modulus and exponent in place (R255). -/
theorem readReg_exec_modexp_twice (c m e n r d : Reg) (s s₁ s₂ : State) (hn : readReg s n ≠ 0) (hcn : c ≠ n) (hcd : c ≠ d)
    (h₁ : exec (.modexp c m e n) s = .next s₁) (h₂ : exec (.modexp r c d n) s₁ = .next s₂) :
    readReg s₂ r = readReg s m ^ (readReg s d * readReg s e) % readReg s n := by
  cases (exec_modexp_of_ne_zero c m e n s hn).symm.trans h₁
  have hn' := readReg_writeResult_ne c n (readReg s m ^ readReg s e % readReg s n) s hcn.symm
  have hd' := readReg_writeResult_ne c d (readReg s m ^ readReg s e % readReg s n) s hcd.symm
  cases (exec_modexp_of_ne_zero r c d n _ (hn'.trans_ne hn)).symm.trans h₂
  rw [readReg_writeResult_same, readReg_writeResult_same, hn', hd', ← Nat.pow_mod, ← pow_mul, Nat.mul_comm]

/-! ## Inverse exponents -/

/-- An exponent that is 1 modulo lcm(p - 1, q - 1) is not 0: else the lcm is 1, and p and q are both 2. -/
theorem pos_of_modEq_one_lcm (p q k : Nat) (hpq : p ≠ q) (hk : k ≡ 1 [MOD Nat.lcm (p - 1) (q - 1)]) : 0 < k := by
  refine Nat.pos_of_ne_zero fun h0 => hpq ?_
  have hlcm : Nat.lcm (p - 1) (q - 1) ∣ 1 := Nat.modEq_zero_iff_dvd.mp (h0 ▸ hk).symm
  have hp1 : p - 1 = 1 := Nat.dvd_one.mp ((Nat.dvd_lcm_left _ _).trans hlcm)
  have hq1 : q - 1 = 1 := Nat.dvd_one.mp ((Nat.dvd_lcm_right _ _).trans hlcm)
  omega

/-- Fermat's little theorem for every base: a positive exponent that is 1 modulo p - 1 acts as 1, also on a multiple of p. -/
theorem pow_modEq_self_of_prime (p k m : Nat) (hp : p.Prime) (hpos : 0 < k) (hk : k ≡ 1 [MOD p - 1]) :
    m ^ k ≡ m [MOD p] := by
  have hdvd : p - 1 ∣ k - 1 := (Nat.modEq_iff_dvd' hpos).mp hk.symm
  have h := Int.ModEq.pow_eq_pow hp hdvd hpos Nat.one_pos m
  rw [pow_one] at h
  exact_mod_cast h

/-- The arithmetic of R174: modulo the product of two distinct primes, an exponent that is 1 modulo lcm(p - 1, q - 1) gives back every
number below the product. It does so modulo each prime, and the primes are coprime. -/
theorem pow_mod_mul_eq_self (p q k m : Nat) (hp : p.Prime) (hq : q.Prime) (hpq : p ≠ q)
    (hk : k ≡ 1 [MOD Nat.lcm (p - 1) (q - 1)]) (hm : m < p * q) : m ^ k % (p * q) = m := by
  have hpos : 0 < k := pos_of_modEq_one_lcm p q k hpq hk
  have hmodp : m ^ k ≡ m [MOD p] := pow_modEq_self_of_prime p k m hp hpos (hk.of_dvd (Nat.dvd_lcm_left _ _))
  have hmodq : m ^ k ≡ m [MOD q] := pow_modEq_self_of_prime q k m hq hpos (hk.of_dvd (Nat.dvd_lcm_right _ _))
  have hcop : p.Coprime q := (Nat.coprime_primes hp hq).mpr hpq
  exact Nat.mod_eq_of_modEq ((Nat.modEq_and_modEq_iff_modEq_mul hcop).mp ⟨hmodp, hmodq⟩) hm

end Sys2Proof.Machine

namespace Sys2Proof.Proofs

open Sys2Proof.Machine

/-- Settles O21: the binary method computes the power (`modExp_eq`); what is left is what the two completions write. -/
theorem modexpWritesTheRemainderOfTheExactPower : Obligations.ModexpWritesTheRemainderOfTheExactPower :=
  fun rd rs1 rs2 rs3 s => ⟨exec_modexp_of_ne_zero rd rs1 rs2 rs3 s, exec_modexp_of_zero rd rs1 rs2 rs3 s⟩

/-- Settles O58: the two commands raise the message to x[d] * x[e], which is 1 modulo lcm(p - 1, q - 1). -/
theorem decryptingAnEncryptedMessageGivesItBack : Obligations.DecryptingAnEncryptedMessageGivesItBack := by
  intro p q c m e n r d s s₁ s₂ hp hq hpq hn hde hm hcn hcd h₁ h₂
  have hn0 : readReg s n ≠ 0 := hn.trans_ne (Nat.mul_ne_zero hp.ne_zero hq.ne_zero)
  calc readReg s₂ r = readReg s m ^ (readReg s d * readReg s e) % readReg s n :=
        readReg_exec_modexp_twice c m e n r d s s₁ s₂ hn0 hcn hcd h₁ h₂
    _ = readReg s m := by rw [hn, pow_mod_mul_eq_self p q _ _ hp hq hpq hde hm]

end Sys2Proof.Proofs
end

section
/-! PROOFS, 43_modred: the reduction engine's two commands (R184, R188), and what the four commands with a modulus share: the zero
modulus (R190), the modulus 1 (R182) and the bound of every result (R181). -/

namespace Sys2Proof.Machine

open Sys2Proof.Safety

/-! ## The two ends of MODRED and of MODMUL -/

section reduction

variable (rd rs1 rs2 rs3 : Reg) (s : State)

theorem exec_modred_of_zero (h : readReg s rs3 = 0) :
    exec (.modred rd rs1 rs3) s = .next (raiseError .zeroModulus s) := by
  rw [exec, execModred, if_pos h]

theorem exec_modred_of_ne_zero (h : readReg s rs3 ≠ 0) :
    exec (.modred rd rs1 rs3) s = .next (writeResult rd (readReg s rs1 % readReg s rs3) s) := by
  rw [exec, execModred, if_neg h, redMod]

theorem exec_modmul_of_zero (h : readReg s rs3 = 0) :
    exec (.modmul rd rs1 rs2 rs3) s = .next (raiseError .zeroModulus s) := by
  rw [exec, execModmul, if_pos h]

theorem exec_modmul_of_ne_zero (h : readReg s rs3 ≠ 0) :
    exec (.modmul rd rs1 rs2 rs3) s = .next (writeResult rd (readReg s rs1 * readReg s rs2 % readReg s rs3) s) := by
  rw [exec, execModmul, if_neg h, mulMod, redMod]

end reduction

/-! ## The ends of a command with a modulus -/

/-- The ends of a command with modulus register `r` and destination `rd`: ZeroModulus on a zero modulus (R190); NoModularInverse,
which no modulus below 2 can raise; or a result below the modulus (R181). -/
def EndsByModulus (i : Instr) (r rd : Reg) (s : State) : Prop :=
  (readReg s r = 0 ∧ exec i s = .next (raiseError .zeroModulus s))
    ∨ (2 ≤ readReg s r ∧ exec i s = .next (raiseError .noModularInverse s))
    ∨ (∃ v, v < readReg s r ∧ exec i s = .next (writeResult rd v s))

/-- A command that tests its modulus and then writes a remainder has two of the three ends. -/
theorem endsByModulus_of_remainder (i : Instr) (r rd : Reg) (s : State) (v : Nat)
    (hzero : readReg s r = 0 → exec i s = .next (raiseError .zeroModulus s))
    (hne : readReg s r ≠ 0 → exec i s = .next (writeResult rd (v % readReg s r) s)) : EndsByModulus i r rd s := by
  by_cases hm : readReg s r = 0
  · exact .inl ⟨hm, hzero hm⟩
  · exact .inr (.inr ⟨_, Nat.mod_lt v (Nat.pos_of_ne_zero hm), hne hm⟩)

/-- MODINV has all three ends: every operand is coprime to the modulus 1, so a missing inverse needs a modulus from 2 on (R156). -/
theorem endsByModulus_modinv (rd rs1 rs3 : Reg) (s : State) : EndsByModulus (.modinv rd rs1 rs3) rs3 rd s := by
  rcases Nat.eq_zero_or_pos (readReg s rs3) with hm | hm
  · exact .inl ⟨hm, exec_modinv_of_zero rd rs1 rs3 s hm⟩
  by_cases hg : Nat.gcd (readReg s rs1) (readReg s rs3) = 1
  · obtain ⟨-, hlt, -⟩ := extEuclid_of_coprime _ _ hm hg
    exact .inr (.inr ⟨_, hlt, exec_modinv_of_coprime rd rs1 rs3 s hm hg⟩)
  · have hne1 : readReg s rs3 ≠ 1 := fun h1 => hg (by rw [h1, Nat.gcd_one_right])
    exact .inr (.inl ⟨by omega, exec_modinv_of_not_coprime rd rs1 rs3 s hm hg⟩)

/-- Said once of the four commands: their zero and nonzero cases are what the lemmas of each command give. -/
theorem exec_endsByModulus (i : Instr) (r rd : Reg) (s : State) (hr : modulusReg i = some r) (hd : destReg i = some rd) :
    EndsByModulus i r rd s := by
  cases i with
  | ptest a => cases hr
  | modinv _ a _ =>
    cases hr; cases hd
    exact endsByModulus_modinv rd a r s
  | modexp _ a b _ =>
    cases hr; cases hd
    exact endsByModulus_of_remainder _ r rd s _ (exec_modexp_of_zero rd a b r s) (exec_modexp_of_ne_zero rd a b r s)
  | modred _ a _ =>
    cases hr; cases hd
    exact endsByModulus_of_remainder _ r rd s _ (exec_modred_of_zero rd a r s) (exec_modred_of_ne_zero rd a r s)
  | modmul _ a b _ =>
    cases hr; cases hd
    exact endsByModulus_of_remainder _ r rd s _ (exec_modmul_of_zero rd a b r s) (exec_modmul_of_ne_zero rd a b r s)

/-- The commands with a modulus register are those with a destination: all but PTEST. -/
theorem exists_modulusReg_iff (i : Instr) : (∃ r, modulusReg i = some r) ↔ ∃ rd, destReg i = some rd := by
  cases i <;> simp [modulusReg, destReg]

/-- The first step of PTEST records no error code (R122). -/
theorem firstStep_errcode (n : Nat) (s : State) (h : s.errcode = 0) : (firstStep n s).errcode = 0 := by
  rcases firstStep_cases n s with ⟨v, -, hs⟩ | ⟨-, -, ⟨-, hs⟩ | ⟨-, hs⟩⟩ <;> rw [hs]
  · rfl
  · rfl
  · exact h

end Sys2Proof.Machine

namespace Sys2Proof.Proofs

open Sys2Proof.Machine

/-- Settles O25: a zero modulus leaves one end only, since the other two need a modulus of at least 1; and these two record the
codes 3 and 0, as the first step of PTEST leaves 0. -/
theorem zeroModulusExactlyWhenTheModulusIsZero : Obligations.ZeroModulusExactlyWhenTheModulusIsZero := by
  refine fun i s => ⟨fun r hr hm => ?_, fun t h0 ht hcode => ?_⟩
  · obtain ⟨rd, hd⟩ := (exists_modulusReg_iff i).mp ⟨r, hr⟩
    rcases exec_endsByModulus i r rd s hr hd with ⟨-, h⟩ | ⟨h2, -⟩ | ⟨v, hv, -⟩
    · exact h
    · omega
    · omega
  · rcases exec_cases i s t ht with ⟨rd, hd, -⟩ | ⟨rs1, -, rfl⟩
    · obtain ⟨r, hr⟩ := (exists_modulusReg_iff i).mpr ⟨rd, hd⟩
      rcases exec_endsByModulus i r rd s hr hd with ⟨hm, -⟩ | ⟨-, h⟩ | ⟨v, -, h⟩
      · exact ⟨r, hr, hm⟩
      · cases h.symm.trans ht
        exact absurd (show causeCode .noModularInverse = 2 from hcode) (by decide)
      · cases h.symm.trans ht
        exact absurd (show (0 : BitVec 8) = 2 from hcode) (by decide)
    · exact absurd ((firstStep_errcode _ s h0).symm.trans hcode) (by decide)

/-- Settles O26: the modulus 1 leaves one end only, a result below 1. -/
theorem modulusOneGivesZero : Obligations.ModulusOneGivesZero := by
  intro i r rd s hr hd h1
  rcases exec_endsByModulus i r rd s hr hd with ⟨h0, -⟩ | ⟨h2, -⟩ | ⟨v, hv, h⟩
  · omega
  · omega
  · obtain rfl : v = 0 := by omega
    exact h

/-- Settles O27: of the ends of a command with a modulus two set ERR, and the third writes a result below the modulus. -/
theorem everyResultIsBelowTheModulus : Obligations.EveryResultIsBelowTheModulus := by
  intro i r rd s t hr hd ht herr
  rcases exec_endsByModulus i r rd s hr hd with ⟨-, h⟩ | ⟨-, h⟩ | ⟨v, hv, h⟩ <;> cases h.symm.trans ht
  · cases herr
  · cases herr
  · rwa [readReg_writeResult_same]

/-- Settles O19: MODRED has two ends, told apart by its modulus. -/
theorem modredWritesTheRemainder : Obligations.ModredWritesTheRemainder :=
  fun rd rs1 rs3 s => ⟨exec_modred_of_ne_zero rd rs1 rs3 s, exec_modred_of_zero rd rs1 rs3 s⟩

/-- Settles O20: MODMUL has two ends, told apart by its modulus; its result is the exact product's remainder. -/
theorem modmulWritesTheRemainderOfTheExactProduct : Obligations.ModmulWritesTheRemainderOfTheExactProduct :=
  fun rd rs1 rs2 rs3 s => ⟨exec_modmul_of_ne_zero rd rs1 rs2 rs3 s, exec_modmul_of_zero rd rs1 rs2 rs3 s⟩

end Sys2Proof.Proofs
end

section
/-! PROOFS, 60_exceptions: an error completion is `raiseError` of one cause on the state before, and nothing else (R204, R205). -/

namespace Sys2Proof.Machine

/-- Every cause has a code of its own, none of them 0 (R202). -/
theorem causeCode_ne_zero (c : Cause) : causeCode c ≠ 0 := by
  cases c <;> decide

/-- The sequencer's step in EXEC on a word that is not legal is IllegalCommand (R46, R205). -/
theorem sequencerStep_of_decode_error (s : State) (why : Illegal) (hp : s.phase = .exec) (hd : decode s.cmd = .error why) :
    sequencerStep s = .next (raiseError .illegalCommand s) := by
  simp only [sequencerStep, hp, executeCmd, hd]

/-- The first step of PTEST raises no error (R122). -/
theorem firstStep_err (n : Nat) (s : State) (h : s.err = false) : (firstStep n s).err = false := by
  rcases firstStep_cases n s with ⟨v, -, hs⟩ | ⟨-, -, ⟨-, hs⟩ | ⟨-, hs⟩⟩ <;> rw [hs]
  · rfl
  · rfl
  · exact h

/-- A command that ends with ERR = 1 has raised ZeroModulus or NoModularInverse on the state it started from (R204): a result clears
ERR, and PTEST raises nothing in its first step. -/
theorem eq_raiseError_of_exec_err (i : Instr) (s t : State) (h0 : s.err = false) (h : exec i s = .next t) (he : t.err = true) :
    ∃ c, (c = .zeroModulus ∨ c = .noModularInverse) ∧ t = raiseError c s := by
  rcases exec_cases i s t h with ⟨rd, -, hraise | ⟨v, rfl⟩⟩ | ⟨rs1, -, rfl⟩
  · exact hraise
  · cases he
  · exact absurd ((firstStep_err _ s h0).symm.trans he) (by decide)

/-- A response step that ends with ERR = 1 is the range error, raised after the count of the answer (R127, R128). -/
theorem takeAnswer_eq_raiseError_of_err (a : Nat) (s : State) (h0 : s.err = false) (he : (takeAnswer a s).err = true) :
    takeAnswer a s = raiseError .rngRange (countDraw s) := by
  rcases takeAnswer_cases a s with ⟨-, hraise⟩ | ⟨-, ⟨-, ht⟩ | ⟨-, -, ht⟩ | ⟨-, -, ht⟩⟩
  · exact hraise
  · rw [ht] at he
    cases he
  · rw [ht] at he
    cases he
  · rw [ht] at he
    exact absurd (h0.symm.trans he) (by decide)

end Sys2Proof.Machine

namespace Sys2Proof.Proofs

open Sys2Proof.Machine

/-- Settles O30: whichever step raises the error, the state after it is `raiseError` of its cause, which has a non-zero code. -/
theorem errorCompletionsArePrecise : Obligations.ErrorCompletionsArePrecise := by
  refine ⟨fun i s t h0 hx he => ?_, fun a s t h0 hp hstep he => ?_⟩
  · obtain ⟨c, -, rfl⟩ := eq_raiseError_of_exec_err i s t h0 hx he
    exact ⟨rfl, causeCode_ne_zero c⟩
  · cases (agentStep_draw a s hp).symm.trans hstep
    rw [takeAnswer_eq_raiseError_of_err a s h0 he]
    rfl

/-- Settles O14: whatever the reason, a word that does not decode raises the cause with code 1. -/
theorem anIllegalWordEndsInIllegalCommand : Obligations.AnIllegalWordEndsInIllegalCommand :=
  fun s why hp hd => sequencerStep_of_decode_error s why hp hd

end Sys2Proof.Proofs
end

section
/-! PROOFS, 70_reset_and_hazards: the two resets (R241, R242), the step that completes a command (R257), the one hang (R258). -/

namespace Sys2Proof.Machine

open Sys2Proof.Safety

/-! ## The soft reset -/

/-- A write to CTRL with bit 1 set resets an idle block (R242). -/
theorem hostWrite_softReset_of_idle (v : Word) (s : State) (hp : s.phase = .idle) (hv : v.getLsbD 1 = true) :
    hostWrite 0x004 v s = resetBlock s := by
  rw [hostWrite_ctrl, writeCtrl, if_pos hv, hp]

/-- A write to CTRL with bit 1 set to a busy block is on R66's list. -/
theorem refusedWrite_softReset_of_busy (v : Word) (s : State) (hp : s.phase ≠ .idle) (hv : v.getLsbD 1 = true) :
    RefusedWrite s 0x004 v :=
  .inr (.inr (.inr (.inr ⟨hp, .inr (.inr (.inr ⟨rfl, hv⟩))⟩)))

/-! ## Completion in one step -/

/-- The first step of PTEST completes it, unless the number needs a witness and there is a round to hold (R122). -/
theorem firstStep_completes (n : Nat) (s : State) (h : n ≤ 3 ∨ n % 2 = 0 ∨ s.klat = 0) :
    (firstStep n s).phase = .idle ∧ (firstStep n s).done = true := by
  rcases firstStep_cases n s with ⟨v, -, hs⟩ | ⟨h5, hodd, ⟨-, hs⟩ | ⟨hk, -⟩⟩
  · rw [hs]
    exact ⟨rfl, rfl⟩
  · rw [hs]
    exact ⟨rfl, rfl⟩
  · rcases h with h3 | heven | h0
    · omega
    · omega
    · exact absurd h0 hk

/-- A command completes in the sequencer's step, unless it is a PTEST that needs a witness (R257). -/
theorem exec_completes (i : Instr) (s t : State) (hx : exec i s = .next t)
    (h : ∀ rs1, i = .ptest rs1 → readReg s rs1 ≤ 3 ∨ readReg s rs1 % 2 = 0 ∨ s.klat = 0) :
    t.phase = .idle ∧ t.done = true := by
  rcases exec_cases i s t hx with ⟨rd, -, ⟨c, -, rfl⟩ | ⟨v, rfl⟩⟩ | ⟨rs1, hi, rfl⟩
  · exact ⟨rfl, rfl⟩
  · exact ⟨rfl, rfl⟩
  · exact firstStep_completes _ s (h rs1 hi)

theorem exec_cmd (i : Instr) (s t : State) (h : exec i s = .next t) : t.cmd = s.cmd := by
  rw [exec_frame i s t h]

/-! ## The hang -/

/-- A PTEST waits for an answer, and neither an answer nor the hard reset is scheduled (R258). -/
def Unanswered (s : State) : Prop := s.phase = .rngWait ∧ ∀ e ∈ s.env.schedule, endsWaiting e = false

/-- The step taken next on an unanswered block cannot end the wait: it is a scheduled one, or the sequencer's. -/
theorem endsWaiting_nextEvent (s : State) (h : ∀ e ∈ s.env.schedule, endsWaiting e = false) :
    endsWaiting (nextEvent s) = false := by
  rcases hs : s.env.schedule with _ | ⟨e, rest⟩ <;> rw [nextEvent, hs]
  · rfl
  · exact h e (hs ▸ List.mem_cons_self)

/-- While a block waits, the host (R252) and the sequencer (R46) change neither PHASE nor the schedule nor the request. -/
theorem agentStep_keeps_waiting (e : Event) (s t : State) (hp : s.phase = .rngWait) (he : endsWaiting e = false)
    (h : agentStep e s = .next t) :
    t.phase = .rngWait ∧ t.env.schedule = s.env.schedule ∧ request t = request s := by
  have hhost : isHostEvent e = true →
      t.phase = .rngWait ∧ t.env.schedule = s.env.schedule ∧ request t = request s := fun hh => by
    obtain ⟨ht, hsched, -⟩ := Proofs.hostCannotDisturbARunningCommand s t e (by simp [hp]) hh h
    refine ⟨?_, hsched, ?_⟩
    · rw [ht]
      exact hp
    · rw [ht]
      rfl
  cases e with
  | hostRead idx => exact hhost rfl
  | hostWrite idx v => exact hhost rfl
  | sequencer =>
    cases (sequencerStep_of_ne_exec s (by simp [hp])).symm.trans h
    exact ⟨hp, rfl, rfl⟩
  | draw a => cases he
  | hardReset => cases he

/-- Every step of the machine leaves an unanswered block unanswered, with the same request standing. -/
theorem step_keeps_unanswered (s : State) (h : Unanswered s) :
    ∃ t, step s = .next t ∧ Unanswered t ∧ request t = request s := by
  obtain ⟨hp, hs⟩ := h
  obtain ⟨t, ht⟩ := agentStep_next (nextEvent s) (popEvent s)
  obtain ⟨htp, hts, htr⟩ := agentStep_keeps_waiting _ (popEvent s) t hp (endsWaiting_nextEvent s hs) ht
  have hsched : t.env.schedule = s.env.schedule.tail := hts
  exact ⟨t, ht, ⟨htp, fun e he => hs e (List.mem_of_mem_tail (hsched ▸ he))⟩, htr⟩

/-- So does every run. -/
theorem run_keeps_unanswered (k : Nat) (s : State) (h : Unanswered s) :
    ∃ t, Host.Core.run core k s = .next t ∧ Unanswered t ∧ request t = request s := by
  induction k generalizing s with
  | zero => exact ⟨s, run_zero s, h, rfl⟩
  | succ k ih =>
    obtain ⟨u, hu, hwait, hreq⟩ := step_keeps_unanswered s h
    obtain ⟨t, ht, hwait', hreq'⟩ := ih u hwait
    exact ⟨t, (run_succ s u k hu).trans ht, hwait', hreq'.trans hreq⟩

end Sys2Proof.Machine

namespace Sys2Proof.Proofs

open Sys2Proof.Machine Sys2Proof.Safety

/-- Settles O45: the block stays unanswered, and STATUS shows PHASE in bits 0 and 6. -/
theorem aSilentRandomSourceHangsTheTest : Obligations.ASilentRandomSourceHangsTheTest := by
  intro s k hp hs
  obtain ⟨t, hrun, ⟨htp, -⟩, hreq⟩ := run_keeps_unanswered k s ⟨hp, hs⟩
  obtain ⟨hbusy, -, -, -, -, -, hwaiting, -⟩ := statusWordHasTheListedLayout t
  exact ⟨t, hrun, htp, by simp [hbusy, htp], by simp [hwaiting, htp], hreq⟩

/-- Settles O17: an illegal word ends in IllegalCommand, and a legal one is a command that completes. -/
theorem oneSequencerStepCompletesEveryCommandWithoutDraws :
    Obligations.OneSequencerStepCompletesEveryCommandWithoutDraws := by
  intro s hp h
  cases hd : decode s.cmd with
  | error why => exact ⟨_, sequencerStep_of_decode_error s why hp hd, rfl, rfl, rfl⟩
  | ok i =>
    obtain ⟨t, hx⟩ := exec_next i s
    obtain ⟨hidle, hdone⟩ := exec_completes i s t hx fun rs1 hi => h rs1 (hi ▸ hd)
    exact ⟨t, (sequencerStep_of_decode s i hp hd).trans hx, hidle, hdone, exec_cmd i s t hx⟩

/-- Settles O1: the table is written out in `State.resetWith`, which both resets answer. -/
theorem bothResetsGiveTheTableOfRuleFiftyTwo : Obligations.BothResetsGiveTheTableOfRuleFiftyTwo := fun s =>
  ⟨rfl, fun v hp hv => congrArg Host.Outcome.next (hostWrite_softReset_of_idle v s hp hv), rfl, rfl⟩

/-- Settles O3: the write is on R66's list, so it is refused. -/
theorem softResetIsRefusedWhileBusy : Obligations.SoftResetIsRefusedWhileBusy := fun s v hp hv =>
  congrArg Host.Outcome.next (hostWrite_of_refusedWrite 0x004 v s (refusedWrite_softReset_of_busy v s hp hv))

end Sys2Proof.Proofs
end
